-- ==== Sys2Proof/Word.lean ====
section
/-! DEFINITION. The value types of the aurora-isa/soft CORE: bytes, 24-bit values, stored register cells and
register indices (00_scope.md R11, 10_state.md R20, R21). -/

namespace Sys2Proof

/-- One byte: a memory cell, an instruction byte, a byte of debug output (00_scope.md R11). -/
abbrev Byte := BitVec 8

/-- A 24-bit value: the logical register width `XLEN` (00_scope.md R10, 10_state.md R21). -/
abbrev Word := BitVec 24

/-- A stored register cell: `RAW_W` = 25 bits, the 24-bit value and one guard bit (10_state.md R21, D1). -/
abbrev RawCell := BitVec 25

/-- A register index: a 4-bit field naming one of the 16 cells of the register file (10_state.md R20, 40_step_and_nop.md
R112). No index outside the file can be written down (90_conflicts.md C12). -/
abbrev Reg := Fin 16

end Sys2Proof
end

