-- ==== Sys2Proof/Config.lean ====
section
/-! DEFINITION. The implementation parameters of 00_scope.md R10 that the spec fixes. The two it leaves open,
`INITIAL_PC` (R271) and the memory image (R272), are arguments of `Sys2Proof.Machine.State.start`. Nothing in this core is
nondeterministic (93_implementation_defined.md, section 1), so there is no free value. -/

namespace Sys2Proof

/-- `MEM_SIZE`: the number of memory cells, 2^24 (00_scope.md R10, 10_state.md R30). An address is valid when it is below
it (20_memory.md R55). -/
def memSize : Nat := 0x1000000

/-- `flags`: cell 14 (10_state.md R23). -/
def flagsReg : Reg := 14

/-- `pc`: cell 15 (10_state.md R23). -/
def pcReg : Reg := 15

/-- The contents of every memory cell after `create()`, and of every cell the loader did not write (10_state.md R35).
It is what an address the memory list does not name reads as. -/
def unlistedByte : Byte := 0x00

/-- The byte `ST` writes to each of its three addresses, whatever the source register holds (42_transfer.md R141). -/
def storedByte : Byte := 0xFF

/-- The byte that ends a string for `PRT` and is not emitted (46_system.md R222). -/
def terminator : Byte := 0x00

/-- The default of the open parameter `INITIAL_PC` (70_reset_and_hazards.md R271, D12). -/
def defaultInitialPc : Word := 0

end Sys2Proof
end

