-- ==== Sys2Proof/Syntax.lean ====
section
/-! DEFINITION. The instruction set: one constructor of `Instr` for each of the 64 rows of the opcode table
(30_encoding.md R83, R86). The operands are the fields the row names: register indices, and the 24-bit immediate of `LDI`.
Bits an instruction ignores (R87) are no operands (log entry 9). -/

namespace Sys2Proof

/-- The instructions of the core, in the order of the opcode table. -/
inductive Instr where
  /-- no operation (40_step_and_nop.md R114). -/
  | nop
  /-- `LD rB, [rA]`: load three bytes, most significant first (42_transfer.md R140). -/
  | ld (regA regB : Reg)
  /-- `ST [rB], rA`: store three bytes, all `0xFF` (42_transfer.md R141). -/
  | st (regA regB : Reg)
  /-- `MOV rB, rA`: copy a raw cell (42_transfer.md R142). -/
  | mov (regA regB : Reg)
  /-- reserved: two-byte no-op (42_transfer.md R143). -/
  | rsv1
  /-- `CMP rA, rB`: unsigned compare to the flags cell (43_compare.md R160). -/
  | cmp (regA regB : Reg)
  /-- `JMP rA`: unconditional jump (44_jump.md R170). -/
  | jmp (regA : Reg)
  /-- `JEQ rA`: jump if the flags cell equals 1 (44_jump.md R171). -/
  | jeq (regA : Reg)
  /-- `JGT rA`: jump if the flags cell equals 2 (44_jump.md R172). -/
  | jgt (regA : Reg)
  /-- `JF3 rA`: jump if the flags cell equals 3 (44_jump.md R173). -/
  | jf3 (regA : Reg)
  /-- `JLT rA`: jump if the flags cell equals 4 (44_jump.md R174). -/
  | jlt (regA : Reg)
  /-- `JF5 rA`: jump if the flags cell equals 5 (44_jump.md R175). -/
  | jf5 (regA : Reg)
  /-- reserved: two-byte no-op (44_jump.md R177). -/
  | rsv3_6
  /-- reserved: two-byte no-op (44_jump.md R177). -/
  | rsv3_7
  /-- reserved: two-byte no-op (44_jump.md R177). -/
  | rsv3_8
  /-- reserved: two-byte no-op (44_jump.md R177). -/
  | rsv3_9
  /-- reserved: two-byte no-op (44_jump.md R177). -/
  | rsv3_a
  /-- reserved: two-byte no-op (44_jump.md R177). -/
  | rsv3_b
  /-- reserved: two-byte no-op (44_jump.md R177). -/
  | rsv3_c
  /-- reserved: two-byte no-op (44_jump.md R177). -/
  | rsv3_d
  /-- reserved: two-byte no-op (44_jump.md R177). -/
  | rsv3_e
  /-- `JNE rA`: jump if the flags cell differs from 1 (44_jump.md R176). -/
  | jne (regA : Reg)
  /-- `ADD rA, rB` (45_alu.md R195). -/
  | add (regA regB : Reg)
  /-- `SUB rA, rB` (45_alu.md R196). -/
  | sub (regA regB : Reg)
  /-- `MUL rA, rB` (45_alu.md R197). -/
  | mul (regA regB : Reg)
  /-- `DIV rA, rB`: unsigned quotient (45_alu.md R198). -/
  | div (regA regB : Reg)
  /-- `MOD rA, rB`: unsigned remainder (45_alu.md R199). -/
  | mod (regA regB : Reg)
  /-- `SHL rA, rB`: logical shift left (45_alu.md R200). -/
  | shl (regA regB : Reg)
  /-- `SHR rA, rB`: logical shift right (45_alu.md R201). -/
  | shr (regA regB : Reg)
  /-- `OR rA, rB` (45_alu.md R202). -/
  | or (regA regB : Reg)
  /-- `AND rA, rB` (45_alu.md R203). -/
  | and (regA regB : Reg)
  /-- `XOR rA, rB` (45_alu.md R204). -/
  | xor (regA regB : Reg)
  /-- `NOT rA`: bitwise complement (45_alu.md R205). -/
  | not (regA : Reg)
  /-- `INC rA` (45_alu.md R206). -/
  | inc (regA : Reg)
  /-- `DEC rA` (45_alu.md R207). -/
  | dec (regA : Reg)
  /-- reserved: two-byte no-op (45_alu.md R208). -/
  | rsv4_d
  /-- reserved: two-byte no-op (45_alu.md R208). -/
  | rsv4_e
  /-- reserved: two-byte no-op (45_alu.md R208). -/
  | rsv4_f
  /-- reserved: two-byte no-op (40_step_and_nop.md R115). -/
  | rsv5
  /-- reserved: two-byte no-op (40_step_and_nop.md R115). -/
  | rsv6
  /-- reserved: two-byte no-op (40_step_and_nop.md R115). -/
  | rsv7
  /-- reserved: two-byte no-op (40_step_and_nop.md R115). -/
  | rsv8
  /-- reserved: two-byte no-op (40_step_and_nop.md R115). -/
  | rsv9
  /-- reserved: two-byte no-op (40_step_and_nop.md R115). -/
  | rsva
  /-- reserved: two-byte no-op (40_step_and_nop.md R115). -/
  | rsvb
  /-- reserved: two-byte no-op (40_step_and_nop.md R115). -/
  | rsvc
  /-- reserved: two-byte no-op (40_step_and_nop.md R115). -/
  | rsvd
  /-- `HLT`: end the run with status Halt (46_system.md R220). -/
  | hlt
  /-- reserved: two-byte no-op (46_system.md R223). -/
  | rsve_1
  /-- reserved: two-byte no-op (46_system.md R223). -/
  | rsve_2
  /-- reserved: two-byte no-op (46_system.md R223). -/
  | rsve_3
  /-- reserved: two-byte no-op (46_system.md R223). -/
  | rsve_4
  /-- reserved: two-byte no-op (46_system.md R223). -/
  | rsve_5
  /-- reserved: two-byte no-op (46_system.md R223). -/
  | rsve_6
  /-- reserved: two-byte no-op (46_system.md R223). -/
  | rsve_7
  /-- reserved: two-byte no-op (46_system.md R223). -/
  | rsve_8
  /-- reserved: two-byte no-op (46_system.md R223). -/
  | rsve_9
  /-- reserved: two-byte no-op (46_system.md R223). -/
  | rsve_a
  /-- reserved: two-byte no-op (46_system.md R223). -/
  | rsve_b
  /-- reserved: two-byte no-op (46_system.md R223). -/
  | rsve_c
  /-- reserved: two-byte no-op (46_system.md R223). -/
  | rsve_d
  /-- reserved: two-byte no-op (46_system.md R223). -/
  | rsve_e
  /-- `PRT rA`: print the zero-terminated string at the address in `rA` (46_system.md R222). -/
  | prt (regA : Reg)
  /-- `LDI rD, imm24`: immediate load (41_immediate_load.md R130). -/
  | ldi (d : Reg) (imm : Word)
  deriving DecidableEq, Repr

/-- The row of the opcode table an instruction belongs to, by its mnemonic (30_encoding.md R83, R92). -/
def Instr.mnemonic : Instr → String
  | .nop => "NOP"
  | .ld _ _ => "LD"
  | .st _ _ => "ST"
  | .mov _ _ => "MOV"
  | .rsv1 => "RSV1"
  | .cmp _ _ => "CMP"
  | .jmp _ => "JMP"
  | .jeq _ => "JEQ"
  | .jgt _ => "JGT"
  | .jf3 _ => "JF3"
  | .jlt _ => "JLT"
  | .jf5 _ => "JF5"
  | .rsv3_6 => "RSV3_6"
  | .rsv3_7 => "RSV3_7"
  | .rsv3_8 => "RSV3_8"
  | .rsv3_9 => "RSV3_9"
  | .rsv3_a => "RSV3_A"
  | .rsv3_b => "RSV3_B"
  | .rsv3_c => "RSV3_C"
  | .rsv3_d => "RSV3_D"
  | .rsv3_e => "RSV3_E"
  | .jne _ => "JNE"
  | .add _ _ => "ADD"
  | .sub _ _ => "SUB"
  | .mul _ _ => "MUL"
  | .div _ _ => "DIV"
  | .mod _ _ => "MOD"
  | .shl _ _ => "SHL"
  | .shr _ _ => "SHR"
  | .or _ _ => "OR"
  | .and _ _ => "AND"
  | .xor _ _ => "XOR"
  | .not _ => "NOT"
  | .inc _ => "INC"
  | .dec _ => "DEC"
  | .rsv4_d => "RSV4_D"
  | .rsv4_e => "RSV4_E"
  | .rsv4_f => "RSV4_F"
  | .rsv5 => "RSV5"
  | .rsv6 => "RSV6"
  | .rsv7 => "RSV7"
  | .rsv8 => "RSV8"
  | .rsv9 => "RSV9"
  | .rsva => "RSVA"
  | .rsvb => "RSVB"
  | .rsvc => "RSVC"
  | .rsvd => "RSVD"
  | .hlt => "HLT"
  | .rsve_1 => "RSVE_1"
  | .rsve_2 => "RSVE_2"
  | .rsve_3 => "RSVE_3"
  | .rsve_4 => "RSVE_4"
  | .rsve_5 => "RSVE_5"
  | .rsve_6 => "RSVE_6"
  | .rsve_7 => "RSVE_7"
  | .rsve_8 => "RSVE_8"
  | .rsve_9 => "RSVE_9"
  | .rsve_a => "RSVE_A"
  | .rsve_b => "RSVE_B"
  | .rsve_c => "RSVE_C"
  | .rsve_d => "RSVE_D"
  | .rsve_e => "RSVE_E"
  | .prt _ => "PRT"
  | .ldi _ _ => "LDI"

/-- The length of an instruction in bytes: four for the immediate load, two for every other (30_encoding.md R80). -/
def Instr.length : Instr → Nat
  | .nop => 2
  | .ld _ _ => 2
  | .st _ _ => 2
  | .mov _ _ => 2
  | .rsv1 => 2
  | .cmp _ _ => 2
  | .jmp _ => 2
  | .jeq _ => 2
  | .jgt _ => 2
  | .jf3 _ => 2
  | .jlt _ => 2
  | .jf5 _ => 2
  | .rsv3_6 => 2
  | .rsv3_7 => 2
  | .rsv3_8 => 2
  | .rsv3_9 => 2
  | .rsv3_a => 2
  | .rsv3_b => 2
  | .rsv3_c => 2
  | .rsv3_d => 2
  | .rsv3_e => 2
  | .jne _ => 2
  | .add _ _ => 2
  | .sub _ _ => 2
  | .mul _ _ => 2
  | .div _ _ => 2
  | .mod _ _ => 2
  | .shl _ _ => 2
  | .shr _ _ => 2
  | .or _ _ => 2
  | .and _ _ => 2
  | .xor _ _ => 2
  | .not _ => 2
  | .inc _ => 2
  | .dec _ => 2
  | .rsv4_d => 2
  | .rsv4_e => 2
  | .rsv4_f => 2
  | .rsv5 => 2
  | .rsv6 => 2
  | .rsv7 => 2
  | .rsv8 => 2
  | .rsv9 => 2
  | .rsva => 2
  | .rsvb => 2
  | .rsvc => 2
  | .rsvd => 2
  | .hlt => 2
  | .rsve_1 => 2
  | .rsve_2 => 2
  | .rsve_3 => 2
  | .rsve_4 => 2
  | .rsve_5 => 2
  | .rsve_6 => 2
  | .rsve_7 => 2
  | .rsve_8 => 2
  | .rsve_9 => 2
  | .rsve_a => 2
  | .rsve_b => 2
  | .rsve_c => 2
  | .rsve_d => 2
  | .rsve_e => 2
  | .prt _ => 2
  | .ldi _ _ => 4

end Sys2Proof
end

