-- ==== Sys2Proof/WellFormed.lean ====
section
/-! DEFINITION. The opcode table as data (30_encoding.md R83, R86, R87) and the well-formedness checks on what is not well
formed by its type alone: a row of the table, and an encoding. Every term of `Instr` is well formed by its type: a register
index is a 4-bit field and the immediate has 24 bits (40_step_and_nop.md R112, 90_conflicts.md C12), so an instruction
needs no check of its own. -/

namespace Sys2Proof

/-- One row of the opcode table. Only `b0` selects an instruction (R86: "`b1` never takes part in selecting the
instruction"), so match and mask are those of `b0`. -/
structure OpcodeRow where
  /-- the row's mnemonic -/
  mnemonic : String
  /-- instruction length in bytes -/
  length : Nat
  /-- the fixed bits of `b0` -/
  mask : Byte
  /-- their values -/
  pattern : Byte
  /-- the bits of `b0` the instruction ignores (the `x` of the row's encoding string) -/
  ignored0 : Byte
  /-- the bits of `b1` the instruction ignores -/
  ignored1 : Byte
  deriving DecidableEq, Repr

/-- Does the row match the first byte: `(b0 & mask) = pattern` (R83). -/
def OpcodeRow.matchesByte (r : OpcodeRow) (b0 : Byte) : Bool := b0 &&& r.mask == r.pattern

/-- A row is well formed when its pattern lies inside its mask, it ignores no fixed bit, and its length is the one the
first byte tells: four exactly when the high nibble is `0xF` (R80, R83). -/
def OpcodeRow.wf (r : OpcodeRow) : Bool :=
  (r.pattern &&& r.mask == r.pattern) && (r.mask &&& r.ignored0 == 0) &&
    (r.length == if r.pattern &&& 0xF0 == 0xF0 then 4 else 2)

/-- Rows 1 to 6 of the opcode table. -/
def opcodeRowsPlain : List OpcodeRow := [
  ⟨"NOP", 2, 0xF0, 0x00, 0x0F, 0xFF⟩,
  ⟨"LD", 2, 0xFC, 0x10, 0x03, 0x00⟩,
  ⟨"ST", 2, 0xFC, 0x14, 0x03, 0x00⟩,
  ⟨"MOV", 2, 0xFC, 0x18, 0x03, 0x00⟩,
  ⟨"RSV1", 2, 0xFC, 0x1C, 0x03, 0xFF⟩,
  ⟨"CMP", 2, 0xF0, 0x20, 0x0F, 0x00⟩]

/-- Rows 7 to 22 of the opcode table. -/
def opcodeRowsJump : List OpcodeRow := [
  ⟨"JMP", 2, 0xFF, 0x30, 0x00, 0x0F⟩,
  ⟨"JEQ", 2, 0xFF, 0x31, 0x00, 0x0F⟩,
  ⟨"JGT", 2, 0xFF, 0x32, 0x00, 0x0F⟩,
  ⟨"JF3", 2, 0xFF, 0x33, 0x00, 0x0F⟩,
  ⟨"JLT", 2, 0xFF, 0x34, 0x00, 0x0F⟩,
  ⟨"JF5", 2, 0xFF, 0x35, 0x00, 0x0F⟩,
  ⟨"RSV3_6", 2, 0xFF, 0x36, 0x00, 0xFF⟩,
  ⟨"RSV3_7", 2, 0xFF, 0x37, 0x00, 0xFF⟩,
  ⟨"RSV3_8", 2, 0xFF, 0x38, 0x00, 0xFF⟩,
  ⟨"RSV3_9", 2, 0xFF, 0x39, 0x00, 0xFF⟩,
  ⟨"RSV3_A", 2, 0xFF, 0x3A, 0x00, 0xFF⟩,
  ⟨"RSV3_B", 2, 0xFF, 0x3B, 0x00, 0xFF⟩,
  ⟨"RSV3_C", 2, 0xFF, 0x3C, 0x00, 0xFF⟩,
  ⟨"RSV3_D", 2, 0xFF, 0x3D, 0x00, 0xFF⟩,
  ⟨"RSV3_E", 2, 0xFF, 0x3E, 0x00, 0xFF⟩,
  ⟨"JNE", 2, 0xFF, 0x3F, 0x00, 0x0F⟩]

/-- Rows 23 to 38 of the opcode table. -/
def opcodeRowsAlu : List OpcodeRow := [
  ⟨"ADD", 2, 0xFF, 0x40, 0x00, 0x00⟩,
  ⟨"SUB", 2, 0xFF, 0x41, 0x00, 0x00⟩,
  ⟨"MUL", 2, 0xFF, 0x42, 0x00, 0x00⟩,
  ⟨"DIV", 2, 0xFF, 0x43, 0x00, 0x00⟩,
  ⟨"MOD", 2, 0xFF, 0x44, 0x00, 0x00⟩,
  ⟨"SHL", 2, 0xFF, 0x45, 0x00, 0x00⟩,
  ⟨"SHR", 2, 0xFF, 0x46, 0x00, 0x00⟩,
  ⟨"OR", 2, 0xFF, 0x47, 0x00, 0x00⟩,
  ⟨"AND", 2, 0xFF, 0x48, 0x00, 0x00⟩,
  ⟨"XOR", 2, 0xFF, 0x49, 0x00, 0x00⟩,
  ⟨"NOT", 2, 0xFF, 0x4A, 0x00, 0x0F⟩,
  ⟨"INC", 2, 0xFF, 0x4B, 0x00, 0x0F⟩,
  ⟨"DEC", 2, 0xFF, 0x4C, 0x00, 0x0F⟩,
  ⟨"RSV4_D", 2, 0xFF, 0x4D, 0x00, 0xFF⟩,
  ⟨"RSV4_E", 2, 0xFF, 0x4E, 0x00, 0xFF⟩,
  ⟨"RSV4_F", 2, 0xFF, 0x4F, 0x00, 0xFF⟩]

/-- Rows 39 to 47 of the opcode table. -/
def opcodeRowsReserved : List OpcodeRow := [
  ⟨"RSV5", 2, 0xF0, 0x50, 0x0F, 0xFF⟩,
  ⟨"RSV6", 2, 0xF0, 0x60, 0x0F, 0xFF⟩,
  ⟨"RSV7", 2, 0xF0, 0x70, 0x0F, 0xFF⟩,
  ⟨"RSV8", 2, 0xF0, 0x80, 0x0F, 0xFF⟩,
  ⟨"RSV9", 2, 0xF0, 0x90, 0x0F, 0xFF⟩,
  ⟨"RSVA", 2, 0xF0, 0xA0, 0x0F, 0xFF⟩,
  ⟨"RSVB", 2, 0xF0, 0xB0, 0x0F, 0xFF⟩,
  ⟨"RSVC", 2, 0xF0, 0xC0, 0x0F, 0xFF⟩,
  ⟨"RSVD", 2, 0xF0, 0xD0, 0x0F, 0xFF⟩]

/-- Rows 48 to 64 of the opcode table. -/
def opcodeRowsSystem : List OpcodeRow := [
  ⟨"HLT", 2, 0xFF, 0xE0, 0x00, 0xFF⟩,
  ⟨"RSVE_1", 2, 0xFF, 0xE1, 0x00, 0xFF⟩,
  ⟨"RSVE_2", 2, 0xFF, 0xE2, 0x00, 0xFF⟩,
  ⟨"RSVE_3", 2, 0xFF, 0xE3, 0x00, 0xFF⟩,
  ⟨"RSVE_4", 2, 0xFF, 0xE4, 0x00, 0xFF⟩,
  ⟨"RSVE_5", 2, 0xFF, 0xE5, 0x00, 0xFF⟩,
  ⟨"RSVE_6", 2, 0xFF, 0xE6, 0x00, 0xFF⟩,
  ⟨"RSVE_7", 2, 0xFF, 0xE7, 0x00, 0xFF⟩,
  ⟨"RSVE_8", 2, 0xFF, 0xE8, 0x00, 0xFF⟩,
  ⟨"RSVE_9", 2, 0xFF, 0xE9, 0x00, 0xFF⟩,
  ⟨"RSVE_A", 2, 0xFF, 0xEA, 0x00, 0xFF⟩,
  ⟨"RSVE_B", 2, 0xFF, 0xEB, 0x00, 0xFF⟩,
  ⟨"RSVE_C", 2, 0xFF, 0xEC, 0x00, 0xFF⟩,
  ⟨"RSVE_D", 2, 0xFF, 0xED, 0x00, 0xFF⟩,
  ⟨"RSVE_E", 2, 0xFF, 0xEE, 0x00, 0xFF⟩,
  ⟨"PRT", 2, 0xFF, 0xEF, 0x00, 0x0F⟩,
  ⟨"LDI", 4, 0xF0, 0xF0, 0x00, 0x00⟩]

/-- The opcode table: 64 rows (R86). -/
def opcodeTable : List OpcodeRow :=
  opcodeRowsPlain ++ opcodeRowsJump ++ opcodeRowsAlu ++ opcodeRowsReserved ++ opcodeRowsSystem

/-- The row of the table that matches a first byte. -/
def rowOf (b0 : Byte) : Option OpcodeRow := opcodeTable.find? (·.matchesByte b0)

/-- A byte string is a canonical encoding when it has exactly the length its first byte tells (R80) and every ignored bit
is zero (R87, R92: "emits zero in every ignored bit"). -/
def canonical : List Byte → Bool
  | b0 :: b1 :: rest =>
    match rowOf b0 with
    | some r => (rest.length + 2 == r.length) && (b0 &&& r.ignored0 == 0) && (b1 &&& r.ignored1 == 0)
    | none => false
  | _ => false

end Sys2Proof
end

