-- ==== Sys2Proof/Decode.lean ====
section
/-! DEFINITION. The instruction decoder (unit 1 of 00_scope.md R2): field extraction and dispatch (40_step_and_nop.md R112)
over the opcode map of 30_encoding.md R86, total on any bytes; then the encoder, which writes the canonical encoding of R92;
then the host's view of the opcode table's words. -/

namespace Sys2Proof

/-- `b[7:4]` (00_scope.md R11). -/
def highNibble (b : Byte) : BitVec 4 := b.extractLsb' 4 4

/-- `b[3:0]` (00_scope.md R11). -/
def lowNibble (b : Byte) : BitVec 4 := b.extractLsb' 0 4

/-- `regA`: the high nibble of `b1`, a raw 4-bit register index (30_encoding.md R81). -/
def fieldA (b1 : Byte) : Reg := (highNibble b1).toFin

/-- `regB`: the low nibble of `b1`, a raw 4-bit register index (30_encoding.md R81). -/
def fieldB (b1 : Byte) : Reg := (lowNibble b1).toFin

/-- The first byte alone tells the length: the four-byte format `I4` exactly when `b0[7:4] = 0xF` (30_encoding.md R80). -/
def isLongForm (b0 : Byte) : Bool := highNibble b0 == 0xF

/-- `imm24 = {b3, b2, b1}`, least significant byte fetched first (30_encoding.md R84). -/
def immediate (b1 b2 b3 : Byte) : Word := b3 ++ b2 ++ b1

/-- Class `0x1`, by `sel = b0[3:2]`; the last arm is `sel = 3` (42_transfer.md R140 to R143). -/
def decodeTransfer (b0 b1 : Byte) : Instr :=
  match b0.extractLsb' 2 2 with
  | 0#2 => .ld (fieldA b1) (fieldB b1)
  | 1#2 => .st (fieldA b1) (fieldB b1)
  | 2#2 => .mov (fieldA b1) (fieldB b1)
  | _ => .rsv1

/-- Class `0x3`, by `p2`; the last arm is `p2 = 0xF` (44_jump.md R170 to R177). -/
def decodeJump (b0 b1 : Byte) : Instr :=
  match lowNibble b0 with
  | 0x0#4 => .jmp (fieldA b1)
  | 0x1#4 => .jeq (fieldA b1)
  | 0x2#4 => .jgt (fieldA b1)
  | 0x3#4 => .jf3 (fieldA b1)
  | 0x4#4 => .jlt (fieldA b1)
  | 0x5#4 => .jf5 (fieldA b1)
  | 0x6#4 => .rsv3_6
  | 0x7#4 => .rsv3_7
  | 0x8#4 => .rsv3_8
  | 0x9#4 => .rsv3_9
  | 0xA#4 => .rsv3_a
  | 0xB#4 => .rsv3_b
  | 0xC#4 => .rsv3_c
  | 0xD#4 => .rsv3_d
  | 0xE#4 => .rsv3_e
  | _ => .jne (fieldA b1)

/-- Class `0x4`, by `p2`; the last arm is `p2 = 0xF` (45_alu.md R195 to R208). -/
def decodeAlu (b0 b1 : Byte) : Instr :=
  match lowNibble b0 with
  | 0x0#4 => .add (fieldA b1) (fieldB b1)
  | 0x1#4 => .sub (fieldA b1) (fieldB b1)
  | 0x2#4 => .mul (fieldA b1) (fieldB b1)
  | 0x3#4 => .div (fieldA b1) (fieldB b1)
  | 0x4#4 => .mod (fieldA b1) (fieldB b1)
  | 0x5#4 => .shl (fieldA b1) (fieldB b1)
  | 0x6#4 => .shr (fieldA b1) (fieldB b1)
  | 0x7#4 => .or (fieldA b1) (fieldB b1)
  | 0x8#4 => .and (fieldA b1) (fieldB b1)
  | 0x9#4 => .xor (fieldA b1) (fieldB b1)
  | 0xA#4 => .not (fieldA b1)
  | 0xB#4 => .inc (fieldA b1)
  | 0xC#4 => .dec (fieldA b1)
  | 0xD#4 => .rsv4_d
  | 0xE#4 => .rsv4_e
  | _ => .rsv4_f

/-- Class `0xE`, by `p2`; the last arm is `p2 = 0xF` (46_system.md R220 to R223). -/
def decodeSystem (b0 b1 : Byte) : Instr :=
  match lowNibble b0 with
  | 0x0#4 => .hlt
  | 0x1#4 => .rsve_1
  | 0x2#4 => .rsve_2
  | 0x3#4 => .rsve_3
  | 0x4#4 => .rsve_4
  | 0x5#4 => .rsve_5
  | 0x6#4 => .rsve_6
  | 0x7#4 => .rsve_7
  | 0x8#4 => .rsve_8
  | 0x9#4 => .rsve_9
  | 0xA#4 => .rsve_a
  | 0xB#4 => .rsve_b
  | 0xC#4 => .rsve_c
  | 0xD#4 => .rsve_d
  | 0xE#4 => .rsve_e
  | _ => .prt (fieldA b1)

/-- Dispatch on the class `b0[7:4]`; the last arm is class `0xF`, the only one that looks at `b2` and `b3`
(40_step_and_nop.md R112, 30_encoding.md R86). -/
def decodeBytes (b0 b1 b2 b3 : Byte) : Instr :=
  match highNibble b0 with
  | 0x0#4 => .nop
  | 0x1#4 => decodeTransfer b0 b1
  | 0x2#4 => .cmp (fieldA b1) (fieldB b1)
  | 0x3#4 => decodeJump b0 b1
  | 0x4#4 => decodeAlu b0 b1
  | 0x5#4 => .rsv5
  | 0x6#4 => .rsv6
  | 0x7#4 => .rsv7
  | 0x8#4 => .rsv8
  | 0x9#4 => .rsv9
  | 0xA#4 => .rsva
  | 0xB#4 => .rsvb
  | 0xC#4 => .rsvc
  | 0xD#4 => .rsvd
  | 0xE#4 => decodeSystem b0 b1
  | _ => .ldi (lowNibble b0).toFin (immediate b1 b2 b3)

/-- The one way a byte string holds no instruction: it ends before the instruction does. There is no illegal instruction
(30_encoding.md R88, R90), so nothing else is rejected. -/
inductive DecodeReject where
  /-- fewer bytes than the first byte asks for (two, or four when its high nibble is `0xF`: R80) -/
  | truncated
  deriving DecidableEq, Repr

/-- The decoder on any byte string: the first instruction and the bytes after it (30_encoding.md R80, R86). -/
def decode : List Byte → Except DecodeReject (Instr × List Byte)
  | b0 :: b1 :: rest =>
    if isLongForm b0 then
      match rest with
      | b2 :: b3 :: rest' => .ok (decodeBytes b0 b1 b2 b3, rest')
      | _ => .error .truncated
    else .ok (decodeBytes b0 b1 0 0, rest)
  | _ => .error .truncated

/-! ## The encoder -/

/-- The byte `{A, B}` with register `A` in the high nibble and `B` in the low one (30_encoding.md R92). -/
def regPair (a b : Reg) : Byte := BitVec.ofFin (w := 4) a ++ BitVec.ofFin (w := 4) b

/-- The byte `{A, 0}` of a one-register instruction (30_encoding.md R92). -/
def regHigh (a : Reg) : Byte := BitVec.ofFin (w := 4) a ++ 0#4

/-- The canonical encoding of an instruction, its bytes in fetch order: the columns `b0`, `b1`, `b2 b3` of the syntax table, zero in
every ignored bit (30_encoding.md R92). The reserved rows have no line in that table; zero in their ignored bits is the model's
choice (log entry 9). -/
def encode : Instr → List Byte
  | .nop => [0x00, 0x00]
  | .ld a b => [0x10, regPair a b]
  | .st a b => [0x14, regPair a b]
  | .mov a b => [0x18, regPair a b]
  | .rsv1 => [0x1C, 0x00]
  | .cmp a b => [0x20, regPair a b]
  | .jmp a => [0x30, regHigh a]
  | .jeq a => [0x31, regHigh a]
  | .jgt a => [0x32, regHigh a]
  | .jf3 a => [0x33, regHigh a]
  | .jlt a => [0x34, regHigh a]
  | .jf5 a => [0x35, regHigh a]
  | .rsv3_6 => [0x36, 0x00]
  | .rsv3_7 => [0x37, 0x00]
  | .rsv3_8 => [0x38, 0x00]
  | .rsv3_9 => [0x39, 0x00]
  | .rsv3_a => [0x3A, 0x00]
  | .rsv3_b => [0x3B, 0x00]
  | .rsv3_c => [0x3C, 0x00]
  | .rsv3_d => [0x3D, 0x00]
  | .rsv3_e => [0x3E, 0x00]
  | .jne a => [0x3F, regHigh a]
  | .add a b => [0x40, regPair a b]
  | .sub a b => [0x41, regPair a b]
  | .mul a b => [0x42, regPair a b]
  | .div a b => [0x43, regPair a b]
  | .mod a b => [0x44, regPair a b]
  | .shl a b => [0x45, regPair a b]
  | .shr a b => [0x46, regPair a b]
  | .or a b => [0x47, regPair a b]
  | .and a b => [0x48, regPair a b]
  | .xor a b => [0x49, regPair a b]
  | .not a => [0x4A, regHigh a]
  | .inc a => [0x4B, regHigh a]
  | .dec a => [0x4C, regHigh a]
  | .rsv4_d => [0x4D, 0x00]
  | .rsv4_e => [0x4E, 0x00]
  | .rsv4_f => [0x4F, 0x00]
  | .rsv5 => [0x50, 0x00]
  | .rsv6 => [0x60, 0x00]
  | .rsv7 => [0x70, 0x00]
  | .rsv8 => [0x80, 0x00]
  | .rsv9 => [0x90, 0x00]
  | .rsva => [0xA0, 0x00]
  | .rsvb => [0xB0, 0x00]
  | .rsvc => [0xC0, 0x00]
  | .rsvd => [0xD0, 0x00]
  | .hlt => [0xE0, 0x00]
  | .rsve_1 => [0xE1, 0x00]
  | .rsve_2 => [0xE2, 0x00]
  | .rsve_3 => [0xE3, 0x00]
  | .rsve_4 => [0xE4, 0x00]
  | .rsve_5 => [0xE5, 0x00]
  | .rsve_6 => [0xE6, 0x00]
  | .rsve_7 => [0xE7, 0x00]
  | .rsve_8 => [0xE8, 0x00]
  | .rsve_9 => [0xE9, 0x00]
  | .rsve_a => [0xEA, 0x00]
  | .rsve_b => [0xEB, 0x00]
  | .rsve_c => [0xEC, 0x00]
  | .rsve_d => [0xED, 0x00]
  | .rsve_e => [0xEE, 0x00]
  | .prt a => [0xEF, regHigh a]
  | .ldi d imm =>
    [0xF#4 ++ BitVec.ofFin (w := 4) d, imm.extractLsb' 0 8, imm.extractLsb' 8 8, imm.extractLsb' 16 8]

/-! ## The opcode table's words -/

/-- The `k` bytes of a number below `256 ^ k`, the most significant first. -/
def bytesHighFirst : Nat → Nat → List Byte
  | 0, _ => []
  | k + 1, w => BitVec.ofNat 8 (w / 256 ^ k) :: bytesHighFirst k w

/-- The bytes of an instruction the opcode table gives as the number `w` of `nbits` bits, in fetch order, with zeros after
them up to four bytes. The table's words are `W16 = {b0, b1}` and `W32 = {b0, b1, b2, b3}`: the byte at the lowest address
is the highest of the number (30_encoding.md R83; log entry 6). -/
def tableBytes (nbits w : Nat) : List Byte := (bytesHighFirst (nbits / 8) w ++ [0, 0, 0, 0]).take 4

/-- The instruction the decoder reads from a word of the opcode table. -/
def decodeTableWord (nbits w : Nat) : Option Instr :=
  match decode (tableBytes nbits w) with
  | .ok (i, _) => some i
  | .error _ => none

end Sys2Proof
end

