-- ==== Sys2Proof/Machine/State.lean ====
section
/-! DEFINITION. The machine's state as plain data (10_state.md R36), the ways a step can stop, and the state after reset
(10_state.md R35). -/

namespace Sys2Proof.Machine

/-- The memory array `M` (10_state.md R30) as the list of the cells that differ from what an unlisted address reads as. -/
abbrev Memory := List Host.Cell

/-- Canonical form from the address `lo` on: addresses strictly rising, all valid, no byte equal to what an unlisted
address reads as. -/
def Memory.wfFrom : Nat → Memory → Bool
  | _, [] => true
  | lo, (k, c) :: m => decide (lo ≤ k) && decide (k < memSize) && (c != unlistedByte) && Memory.wfFrom (k + 1) m

/-- The memory list is in its one canonical form, so that equal memories are equal lists (log entry 7). -/
def Memory.wf (m : Memory) : Bool := Memory.wfFrom 0 m

/-- The statuses a step reports to the host: an enumerated type with no numeric encoding (00_scope.md R8, D11). -/
inductive Status where
  /-- `Continue` -/
  | cont
  /-- `Halt` -/
  | halt
  /-- `Fault` -/
  | fault
  deriving DecidableEq, Repr

/-- The complete state (10_state.md R36), and beside it the status the last step reported, which the core itself does not
store (10_state.md R34) and the model keeps as it keeps `out` (log entry 1). -/
structure State where
  /-- the register file, cells `x[0]` to `x[15]` of 25 bits; `x[14]` is `flags`, `x[15]` is `pc` (10_state.md R20 to R23) -/
  x : Vector RawCell 16
  /-- the memory array (10_state.md R30) -/
  mem : Memory
  /-- the debug output stream, in the order the bytes were emitted (10_state.md R33) -/
  out : List Byte
  /-- the status of the last step (00_scope.md R8; log entry 1) -/
  status : Status
  deriving DecidableEq, Repr

/-- The five causes of status Fault (60_exceptions.md R240). Each carries the STATE LEFT BEHIND: there is no rollback, and
what the step did before the fault stays done (R241; log entry 3). The spec states every one of these stops, so each is safe:
the machine stops here too. -/
inductive Fault where
  /-- Raised by the fetch of an instruction byte with `pc` at or above `0x1000000`; `pc` is left at the faulting value
  (40_step_and_nop.md R111, R116). Safe. -/
  | fetchOutOfRange (left : State)
  /-- Raised by `LD` when its second or third byte lies outside memory; no register is written (42_transfer.md R140). Safe. -/
  | loadOutOfRange (left : State)
  /-- Raised by `ST` at the first of its three addresses outside memory; the bytes before it are written (42_transfer.md
  R141). Safe. -/
  | storeOutOfRange (left : State)
  /-- Raised by `DIV` and `MOD` when the divisor cell is zero; the destination is not written (45_alu.md R194). Safe. -/
  | divideByZero (left : State)
  /-- Raised by `PRT` when the scan reaches the end of memory; the bytes emitted before it stay in `out` (46_system.md
  R222). Safe. -/
  | printOutOfRange (left : State)
  deriving DecidableEq, Repr

/-- The state a faulting step left (60_exceptions.md R240, R245). -/
def Fault.left : Fault → State
  | .fetchOutOfRange s => s
  | .loadOutOfRange s => s
  | .storeOutOfRange s => s
  | .divideByZero s => s
  | .printOutOfRange s => s

/-- What has no meaning in the model. -/
inductive Refusal where
  /-- Raised by `exec` for an instruction whose meaning is not written; no arm answers it. Safe. -/
  | notModelled (mnemonic : String)
  /-- Raised by `step` when the last step reported `Halt`: the run has ended, and a further step is outside the spec
  (40_step_and_nop.md R118, 46_system.md R221, D10, U4 "refuse"; log entry 2). Safe. -/
  | stepAfterHalt
  /-- Raised by `step` when the last step reported `Fault`: as above (60_exceptions.md R246, D10, U4). Safe. -/
  | stepAfterFault
  deriving DecidableEq, Repr

/-- The state after `create()`: "a new state with all 16 registers and all memory cells zero" (10_state.md R35), and an
empty `out`. -/
def State.reset : State where
  x := Vector.replicate 16 0
  mem := []
  out := []
  status := .cont

/-- The start state of a run: `create()`, then the loader's memory image, then `INITIAL_PC` in cell 15
(70_reset_and_hazards.md R270 to R272). Image and initial pc are the two open parameters (D12, D19; log entry 4). -/
def State.start (image : Memory) (initialPc : Word := defaultInitialPc) : State :=
  { State.reset with mem := image, x := State.reset.x.set pcReg (initialPc.setWidth 25) }

end Sys2Proof.Machine
end

