-- ==== Sys2Proof/Machine/Ops.lean ====
section
/-! DEFINITION. The named operations every instruction is written with: cells of the register file, bytes of memory, the
output stream, the three ways a step ends, and the fetch. There is no exception entry and no return from one in this core
(60_exceptions.md R245, R248): `raiseFault` is the one operation that ends a step with status Fault. -/

namespace Sys2Proof.Machine

/-- What a step, or an instruction, answers. -/
abbrev Result := Host.Outcome State Fault Refusal

/-! ## Register cells -/

/-- `x[i]`: the stored 25-bit value of a cell; reading has no side effect (00_scope.md R12). -/
def State.reg (s : State) (i : Reg) : RawCell := s.x[i]

/-- `x[i] <- e` (00_scope.md R12); no cell is hard-wired (10_state.md R20). -/
def State.setReg (s : State) (i : Reg) (e : RawCell) : State := { s with x := s.x.set i e }

/-- `pc`: another name for `x[15]` (00_scope.md R12). -/
def State.pc (s : State) : RawCell := s.reg pcReg

/-- `pc <- t` (00_scope.md R12). -/
def State.setPc (s : State) (t : RawCell) : State := s.setReg pcReg t

/-! ## Memory bytes -/

/-- The byte `M[a]`: what the list gives for `a`, or what an unlisted address reads as. -/
def readByte : Memory → Nat → Byte
  | [], _ => unlistedByte
  | (k, c) :: m, a => if a = k then c else readByte m a

/-- `M[a] <- b`, keeping the canonical form: addresses rising, no entry equal to what an unlisted address reads as. -/
def writeByte : Memory → Nat → Byte → Memory
  | [], a, b => if b = unlistedByte then [] else [(a, b)]
  | (k, c) :: m, a, b =>
    if a < k then
      if b = unlistedByte then (k, c) :: m else (a, b) :: (k, c) :: m
    else if a = k then
      if b = unlistedByte then m else (a, b) :: m
    else (k, c) :: writeByte m a b

/-- The byte the state's memory holds at `a`. -/
def State.byteAt (s : State) (a : Nat) : Byte := readByte s.mem a

/-- `MemRead(a, 1)`: the byte at a valid address; at any other it accesses nothing and answers `none`, and the caller raises
its own cause (20_memory.md R55). -/
def State.memRead (s : State) (a : Nat) : Option Byte := if a < memSize then some (s.byteAt a) else none

/-- `MemWrite(a, 1, b)` (20_memory.md R55). -/
def State.memWrite (s : State) (a : Nat) (b : Byte) : Option State :=
  if a < memSize then some { s with mem := writeByte s.mem a b } else none

/-- Three reads at `a`, `a + 1`, `a + 2`, in this order and without wrapping, assembled most significant byte first; `none`
when one of the addresses is not valid (20_memory.md R50, R56, 42_transfer.md R140). -/
def State.loadThree (s : State) (a : Nat) : Option Word :=
  match s.memRead a, s.memRead (a + 1), s.memRead (a + 2) with
  | some m0, some m1, some m2 => some (m0 ++ m1 ++ m2)
  | _, _, _ => none

/-- Writes at `a`, `a + 1`, …, one at a time in ascending order and without wrapping. The first address that is not valid
ends it with the state the writes before it left (20_memory.md R56). -/
def storeBytes (s : State) (a : Nat) : List Byte → Except State State
  | [] => .ok s
  | b :: bs =>
    match s.memWrite a b with
    | none => .error s
    | some s' => storeBytes s' (a + 1) bs

/-- The loader's copy of bytes into a memory image from the address `a` on (70_reset_and_hazards.md R272). -/
def placeBytes (m : Memory) (a : Nat) : List Byte → Memory
  | [] => m
  | b :: bs => placeBytes (writeByte m a b) (a + 1) bs

/-! ## The debug output -/

/-- `Emit(b)` for each byte of a list, in order (00_scope.md R12, 10_state.md R33). -/
def State.emit (s : State) (bs : List Byte) : State := { s with out := s.out ++ bs }

/-- The scan of `PRT` over the `n` addresses from `p` up: the bytes before the first terminator, and whether one was found
(46_system.md R222). -/
def scanString (m : Memory) : (n p : Nat) → List Byte × Bool
  | 0, _ => ([], false)
  | n + 1, p =>
    let c := readByte m p
    if c = terminator then ([], true)
    else
      let r := scanString m n (p + 1)
      (c :: r.1, r.2)

/-! ## How a step ends -/

/-- The state with the status a step reports (00_scope.md R8; log entry 1). -/
def State.withStatus (s : State) (st : Status) : State := { s with status := st }

/-- `return Continue` (00_scope.md R12). -/
def returnContinue (s : State) : Result := .next (s.withStatus .cont)

/-- `return Halt` (00_scope.md R12, 46_system.md R221). -/
def returnHalt (s : State) : Result := .next (s.withStatus .halt)

/-- `raise Fault(cause)`: the step ends at once with status Fault. No rollback, nothing saved, no handler: `s` is the state
left behind (00_scope.md R12, 60_exceptions.md R241, R245). -/
def raiseFault (cause : State → Fault) (s : State) : Result := .fault (cause (s.withStatus .fault))

/-! ## The fetch -/

/-- `FetchByte()`: the byte at `pc`, and `pc` advanced by one with no wrap. When `pc` is out of range no byte is consumed,
and the answer is the state as it stands (40_step_and_nop.md R111). -/
def fetchByte (s : State) : Except State (Byte × State) :=
  match s.memRead s.pc.toNat with
  | none => .error s
  | some b => .ok (b, s.setPc (s.pc + 1))

/-- The bytes of one fetched instruction; `b2` and `b3` are fetched by the four-byte format only, and 0 stands for them
otherwise (40_step_and_nop.md R111). -/
structure FetchedBytes where
  /-- first byte -/
  b0 : Byte
  /-- second byte -/
  b1 : Byte
  /-- third byte -/
  b2 : Byte
  /-- fourth byte -/
  b3 : Byte
  deriving DecidableEq, Repr

/-- `Fetch()`: two bytes, then two more when `b0[7:4] = 0xF`, each with the same bounds check (40_step_and_nop.md R111, D2).
`.error` holds the state in which a byte was due and `pc` was out of range. -/
def fetch (s : State) : Except State (FetchedBytes × State) :=
  match fetchByte s with
  | .error left => .error left
  | .ok (b0, s1) =>
    match fetchByte s1 with
    | .error left => .error left
    | .ok (b1, s2) =>
      if isLongForm b0 then
        match fetchByte s2 with
        | .error left => .error left
        | .ok (b2, s3) =>
          match fetchByte s3 with
          | .error left => .error left
          | .ok (b3, s4) => .ok (⟨b0, b1, b2, b3⟩, s4)
      else .ok (⟨b0, b1, 0, 0⟩, s2)

/-- Field extraction and dispatch of the fetched bytes (40_step_and_nop.md R112). -/
def FetchedBytes.instr (f : FetchedBytes) : Instr := decodeBytes f.b0 f.b1 f.b2 f.b3

end Sys2Proof.Machine
end

