-- ==== Sys2Proof/Machine/Operands.lean ====
section
/-! DEFINITION. Operand forms: which read uses the raw 25-bit cell and which the 24-bit value (10_state.md R24, D4), and how
a result is narrowed and stored. -/

namespace Sys2Proof.Machine

/-- `v(i)`: the 24-bit value of a cell, `x[i][23:0]` (00_scope.md R12). -/
def State.val (s : State) (i : Reg) : Word := (s.reg i).setWidth 24

/-- `mask24(e) = e mod 2^24` for any integer (00_scope.md R12). -/
def mask24 (e : Int) : Word := BitVec.ofInt 24 e

/-- `zext_25(e)`: a 24-bit value in a cell has guard bit 0 (00_scope.md R12). -/
def zext25 (e : Word) : RawCell := e.setWidth 25

/-- Write a 24-bit value to a cell (00_scope.md R12). -/
def State.setVal (s : State) (i : Reg) (e : Word) : State := s.setReg i (zext25 e)

/-- A raw cell as the non-negative integer the ALU takes as operand (45_alu.md R193). -/
def State.operand (s : State) (i : Reg) : Nat := (s.reg i).toNat

/-- The base address of `LD`: `v(regA)`, the one masked address of the memory path (42_transfer.md R140, 20_memory.md
R59). -/
def State.loadAddress (s : State) (regA : Reg) : Nat := (s.val regA).toNat

/-- The address of `ST`: the raw cell `x[regB]` (42_transfer.md R141). -/
def State.storeAddress (s : State) (regB : Reg) : Nat := (s.reg regB).toNat

/-- The start address of `PRT`: the raw cell `x[regA]` (46_system.md R222). -/
def State.printAddress (s : State) (regA : Reg) : Nat := (s.reg regA).toNat

/-- `validated(i)`: the one validity check of the core, on the destination of `LDI` (10_state.md R24, D20). -/
def validated (i : Reg) : Bool := i ≤ 9 || i = 14 || i = 15

end Sys2Proof.Machine
end

