-- ==== Sys2Proof/Machine/Alu.lean ====
section
/-! DEFINITION. Class `0x4`: the arithmetic/logic unit (45_alu.md). Operands are the raw 25-bit cells, the result is the exact one
masked to 24 bits, and the destination is the left operand's cell (R190, R191, R193); no flags (R190). -/

namespace Sys2Proof.Machine

/-! ## The operations -/

/-- Exact sum, masked (45_alu.md R195). -/
def aluAdd (a b : Nat) : Word := mask24 (a + b)

/-- Exact difference, possibly negative, masked (45_alu.md R196). -/
def aluSub (a b : Nat) : Word := mask24 ((a : Int) - b)

/-- Exact product, masked (45_alu.md R197). -/
def aluMul (a b : Nat) : Word := mask24 (a * b)

/-- Floor of the exact quotient, masked; the divisor is not zero where it is used (45_alu.md R198). -/
def aluDiv (a b : Nat) : Word := mask24 (a / b : Nat)

/-- Remainder, masked; the divisor is not zero where it is used (45_alu.md R199). -/
def aluMod (a b : Nat) : Word := mask24 (a % b : Nat)

/-- `mask24(a * 2^b)`, which "equals 0 whenever b >= 24": the power is not computed for those amounts (45_alu.md R200, R192;
the law without the case is `aluShl_exact`, log entry 11). -/
def aluShl (a b : Nat) : Word := if b < 24 then mask24 (a * 2 ^ b : Nat) else 0

/-- `mask24(a div 2^b)`, which "equals 0 whenever b >= 25": the power is not computed for those amounts (45_alu.md R201, R192;
the law without the case is `aluShr_exact`, log entry 11). -/
def aluShr (a b : Nat) : Word := if b < 25 then mask24 (a / 2 ^ b : Nat) else 0

/-- `(a | b)[23:0]` (45_alu.md R202). -/
def aluOr (a b : RawCell) : Word := (a ||| b).setWidth 24

/-- `(a & b)[23:0]` (45_alu.md R203). -/
def aluAnd (a b : RawCell) : Word := (a &&& b).setWidth 24

/-- `(a ^ b)[23:0]` (45_alu.md R204). -/
def aluXor (a b : RawCell) : Word := (a ^^^ b).setWidth 24

/-- `0xFFFFFF - a[23:0]` (45_alu.md R205). -/
def aluNot (a : RawCell) : Word := 0xFFFFFF - a.setWidth 24

/-- Exact successor, masked (45_alu.md R206). -/
def aluInc (a : Nat) : Word := mask24 (a + 1)

/-- Exact predecessor, masked (45_alu.md R207). -/
def aluDec (a : Nat) : Word := mask24 ((a : Int) - 1)

/-! ## Write-back -/

/-- The result goes to the left operand's cell with guard bit 0 (45_alu.md R190, R193). -/
def aluWrite (regA : Reg) (result : Word) (s : State) : Result := returnContinue (s.setVal regA result)

/-- Division and modulo: a divisor cell of zero, all 25 bits, faults and nothing is written (45_alu.md R194). -/
def aluDivide (op : Nat → Nat → Word) (regA regB : Reg) (s : State) : Result :=
  if s.reg regB = 0 then raiseFault .divideByZero s
  else aluWrite regA (op (s.operand regA) (s.operand regB)) s

/-! ## The instructions -/

/-- `ADD rA, rB` (45_alu.md R195). -/
def execAdd (regA regB : Reg) (s : State) : Result :=
  aluWrite regA (aluAdd (s.operand regA) (s.operand regB)) s

/-- `SUB rA, rB` (45_alu.md R196). -/
def execSub (regA regB : Reg) (s : State) : Result :=
  aluWrite regA (aluSub (s.operand regA) (s.operand regB)) s

/-- `MUL rA, rB` (45_alu.md R197). -/
def execMul (regA regB : Reg) (s : State) : Result :=
  aluWrite regA (aluMul (s.operand regA) (s.operand regB)) s

/-- `DIV rA, rB` (45_alu.md R198, R194). -/
def execDiv (regA regB : Reg) (s : State) : Result := aluDivide aluDiv regA regB s

/-- `MOD rA, rB` (45_alu.md R199, R194). -/
def execMod (regA regB : Reg) (s : State) : Result := aluDivide aluMod regA regB s

/-- `SHL rA, rB`: the amount is the whole cell (45_alu.md R200, R192). -/
def execShl (regA regB : Reg) (s : State) : Result :=
  aluWrite regA (aluShl (s.operand regA) (s.operand regB)) s

/-- `SHR rA, rB`: the amount is the whole cell (45_alu.md R201, R192). -/
def execShr (regA regB : Reg) (s : State) : Result :=
  aluWrite regA (aluShr (s.operand regA) (s.operand regB)) s

/-- `OR rA, rB` (45_alu.md R202). -/
def execOr (regA regB : Reg) (s : State) : Result :=
  aluWrite regA (aluOr (s.reg regA) (s.reg regB)) s

/-- `AND rA, rB` (45_alu.md R203). -/
def execAnd (regA regB : Reg) (s : State) : Result :=
  aluWrite regA (aluAnd (s.reg regA) (s.reg regB)) s

/-- `XOR rA, rB` (45_alu.md R204). -/
def execXor (regA regB : Reg) (s : State) : Result :=
  aluWrite regA (aluXor (s.reg regA) (s.reg regB)) s

/-- `NOT rA` (45_alu.md R205). -/
def execNot (regA : Reg) (s : State) : Result := aluWrite regA (aluNot (s.reg regA)) s

/-- `INC rA` (45_alu.md R206). -/
def execInc (regA : Reg) (s : State) : Result := aluWrite regA (aluInc (s.operand regA)) s

/-- `DEC rA` (45_alu.md R207). -/
def execDec (regA : Reg) (s : State) : Result := aluWrite regA (aluDec (s.operand regA)) s

/-- `RSV4_D`: reserved, two-byte no-op (45_alu.md R208). -/
def execRsv4_d (s : State) : Result := returnContinue s

/-- `RSV4_E`: reserved, two-byte no-op (45_alu.md R208). -/
def execRsv4_e (s : State) : Result := returnContinue s

/-- `RSV4_F`: reserved, two-byte no-op (45_alu.md R208). -/
def execRsv4_f (s : State) : Result := returnContinue s

end Sys2Proof.Machine
end

