-- ==== Sys2Proof/Machine/Flags.lean ====
section
/-! DEFINITION. The flags cell: what the compare unit writes and how the conditional jumps read it (10_state.md R29). -/

namespace Sys2Proof.Machine

/-- `EQ`, "operands-equal": bit 0 (10_state.md R29). -/
def flagEq : RawCell := 1

/-- `GT`, "left-operand-greater": bit 1 (10_state.md R29). -/
def flagGt : RawCell := 2

/-- `LT`, "left-operand-less": bit 2 (10_state.md R29). -/
def flagLt : RawCell := 4

/-- The compare flag unit: exactly one bit, by the unsigned order of the 24-bit values (43_compare.md R160, R161). -/
def compareFlags (a b : Word) : RawCell :=
  if a = b then flagEq else if b < a then flagGt else flagLt

/-- `flags`: another name for `x[14]`, all 25 bits (00_scope.md R12). -/
def State.flags (s : State) : RawCell := s.reg flagsReg

/-- The equality conditions of class `0x3`: the whole flags cell equals the 4-bit constant, zero-extended; no single bit is
tested (44_jump.md R179). -/
def flagsEqual (s : State) (p2 : BitVec 4) : Bool := s.flags == p2.setWidth 25

end Sys2Proof.Machine
end

