-- ==== Sys2Proof/Machine/Compare.lean ====
section
/-! DEFINITION. Class `0x2`: compare (43_compare.md). -/

namespace Sys2Proof.Machine

/-- `CMP rA, rB`: the flags cell is cleared first, both operands are read after the clear, once, and then exactly one bit is
set (43_compare.md R160, D6). -/
def execCmp (regA regB : Reg) (s : State) : Result :=
  let cleared := s.setReg flagsReg 0
  returnContinue (cleared.setReg flagsReg (compareFlags (cleared.val regA) (cleared.val regB)))

end Sys2Proof.Machine
end

