-- ==== Sys2Proof/Machine/Immediate.lean ====
section
/-! DEFINITION. Class `0xF`: the immediate load (41_immediate_load.md). -/

namespace Sys2Proof.Machine

/-- `LDI rD, imm24`: the validated destinations are written, `r10` to `r13` are silently ignored (41_immediate_load.md R130
to R132, 30_encoding.md R91). -/
def execLdi (d : Reg) (imm : Word) (s : State) : Result :=
  if validated d then returnContinue (s.setVal d imm) else returnContinue s

end Sys2Proof.Machine
end

