-- ==== Sys2Proof/Machine/Jump.lean ====
section
/-! DEFINITION. Class `0x3`: jumps (44_jump.md). -/

namespace Sys2Proof.Machine

/-- What all jumps share: when taken, the raw cell `x[regA]` is copied into cell 15; otherwise `pc` keeps the value the fetch
gave it. No jump faults by itself (44_jump.md R178). -/
def jumpIf (taken : Bool) (regA : Reg) (s : State) : Result :=
  if taken then returnContinue (s.setPc (s.reg regA)) else returnContinue s

/-- `JMP rA` (44_jump.md R170). -/
def execJmp (regA : Reg) (s : State) : Result := jumpIf true regA s

/-- `JEQ rA`: taken when the flags cell equals 1 (44_jump.md R171). -/
def execJeq (regA : Reg) (s : State) : Result := jumpIf (flagsEqual s 1) regA s

/-- `JGT rA`: taken when the flags cell equals 2 (44_jump.md R172). -/
def execJgt (regA : Reg) (s : State) : Result := jumpIf (flagsEqual s 2) regA s

/-- `JF3 rA`: taken when the flags cell equals 3, a value no `CMP` writes (44_jump.md R173). -/
def execJf3 (regA : Reg) (s : State) : Result := jumpIf (flagsEqual s 3) regA s

/-- `JLT rA`: taken when the flags cell equals 4 (44_jump.md R174). -/
def execJlt (regA : Reg) (s : State) : Result := jumpIf (flagsEqual s 4) regA s

/-- `JF5 rA`: taken when the flags cell equals 5, a value no `CMP` writes (44_jump.md R175). -/
def execJf5 (regA : Reg) (s : State) : Result := jumpIf (flagsEqual s 5) regA s

/-- `JNE rA`: taken when the flags cell differs from 1 (44_jump.md R176). -/
def execJne (regA : Reg) (s : State) : Result := jumpIf (!flagsEqual s 1) regA s

/-- `RSV3_6`: reserved, two-byte no-op (44_jump.md R177). -/
def execRsv3_6 (s : State) : Result := returnContinue s

/-- `RSV3_7`: reserved, two-byte no-op (44_jump.md R177). -/
def execRsv3_7 (s : State) : Result := returnContinue s

/-- `RSV3_8`: reserved, two-byte no-op (44_jump.md R177). -/
def execRsv3_8 (s : State) : Result := returnContinue s

/-- `RSV3_9`: reserved, two-byte no-op (44_jump.md R177). -/
def execRsv3_9 (s : State) : Result := returnContinue s

/-- `RSV3_A`: reserved, two-byte no-op (44_jump.md R177). -/
def execRsv3_a (s : State) : Result := returnContinue s

/-- `RSV3_B`: reserved, two-byte no-op (44_jump.md R177). -/
def execRsv3_b (s : State) : Result := returnContinue s

/-- `RSV3_C`: reserved, two-byte no-op (44_jump.md R177). -/
def execRsv3_c (s : State) : Result := returnContinue s

/-- `RSV3_D`: reserved, two-byte no-op (44_jump.md R177). -/
def execRsv3_d (s : State) : Result := returnContinue s

/-- `RSV3_E`: reserved, two-byte no-op (44_jump.md R177). -/
def execRsv3_e (s : State) : Result := returnContinue s

end Sys2Proof.Machine
end

