-- ==== Sys2Proof/Machine/Plain.lean ====
section
/-! DEFINITION. Class `0x0` and the reserved classes `0x5` to `0xD` (40_step_and_nop.md R114, R115): only the pc advance of the
fetch, which is done before the instruction runs. -/

namespace Sys2Proof.Machine

/-- `NOP`: no operation (40_step_and_nop.md R114). -/
def execNop (s : State) : Result := returnContinue s

/-- `RSV5`: reserved, two-byte no-op (40_step_and_nop.md R115). -/
def execRsv5 (s : State) : Result := returnContinue s

/-- `RSV6`: reserved, two-byte no-op (40_step_and_nop.md R115). -/
def execRsv6 (s : State) : Result := returnContinue s

/-- `RSV7`: reserved, two-byte no-op (40_step_and_nop.md R115). -/
def execRsv7 (s : State) : Result := returnContinue s

/-- `RSV8`: reserved, two-byte no-op (40_step_and_nop.md R115). -/
def execRsv8 (s : State) : Result := returnContinue s

/-- `RSV9`: reserved, two-byte no-op (40_step_and_nop.md R115). -/
def execRsv9 (s : State) : Result := returnContinue s

/-- `RSVA`: reserved, two-byte no-op (40_step_and_nop.md R115). -/
def execRsva (s : State) : Result := returnContinue s

/-- `RSVB`: reserved, two-byte no-op (40_step_and_nop.md R115). -/
def execRsvb (s : State) : Result := returnContinue s

/-- `RSVC`: reserved, two-byte no-op (40_step_and_nop.md R115). -/
def execRsvc (s : State) : Result := returnContinue s

/-- `RSVD`: reserved, two-byte no-op (40_step_and_nop.md R115). -/
def execRsvd (s : State) : Result := returnContinue s

end Sys2Proof.Machine
end

