-- ==== Sys2Proof/Machine/System.lean ====
section
/-! DEFINITION. Class `0xE`: halt and print (46_system.md). -/

namespace Sys2Proof.Machine

/-- `HLT`: status Halt and no other mutation (46_system.md R220, R221). -/
def execHlt (s : State) : Result := returnHalt s

/-- `PRT rA`: the bytes from the raw address up to the first zero byte go to the output, unchanged and in order, without the
terminator; a scan that reaches the end of memory faults with the scanned bytes emitted (46_system.md R222, R224, D9). -/
def execPrt (regA : Reg) (s : State) : Result :=
  let p := s.printAddress regA
  let scanned := scanString s.mem (memSize - p) p
  if scanned.2 then returnContinue (s.emit scanned.1) else raiseFault .printOutOfRange (s.emit scanned.1)

/-- `RSVE_1`: reserved, two-byte no-op (46_system.md R223). -/
def execRsve_1 (s : State) : Result := returnContinue s

/-- `RSVE_2`: reserved, two-byte no-op (46_system.md R223). -/
def execRsve_2 (s : State) : Result := returnContinue s

/-- `RSVE_3`: reserved, two-byte no-op (46_system.md R223). -/
def execRsve_3 (s : State) : Result := returnContinue s

/-- `RSVE_4`: reserved, two-byte no-op (46_system.md R223). -/
def execRsve_4 (s : State) : Result := returnContinue s

/-- `RSVE_5`: reserved, two-byte no-op (46_system.md R223). -/
def execRsve_5 (s : State) : Result := returnContinue s

/-- `RSVE_6`: reserved, two-byte no-op (46_system.md R223). -/
def execRsve_6 (s : State) : Result := returnContinue s

/-- `RSVE_7`: reserved, two-byte no-op (46_system.md R223). -/
def execRsve_7 (s : State) : Result := returnContinue s

/-- `RSVE_8`: reserved, two-byte no-op (46_system.md R223). -/
def execRsve_8 (s : State) : Result := returnContinue s

/-- `RSVE_9`: reserved, two-byte no-op (46_system.md R223). -/
def execRsve_9 (s : State) : Result := returnContinue s

/-- `RSVE_A`: reserved, two-byte no-op (46_system.md R223). -/
def execRsve_a (s : State) : Result := returnContinue s

/-- `RSVE_B`: reserved, two-byte no-op (46_system.md R223). -/
def execRsve_b (s : State) : Result := returnContinue s

/-- `RSVE_C`: reserved, two-byte no-op (46_system.md R223). -/
def execRsve_c (s : State) : Result := returnContinue s

/-- `RSVE_D`: reserved, two-byte no-op (46_system.md R223). -/
def execRsve_d (s : State) : Result := returnContinue s

/-- `RSVE_E`: reserved, two-byte no-op (46_system.md R223). -/
def execRsve_e (s : State) : Result := returnContinue s

end Sys2Proof.Machine
end

