-- ==== Sys2Proof/Machine/Transfer.lean ====
section
/-! DEFINITION. Class `0x1`: transfers between registers and memory (42_transfer.md). -/

namespace Sys2Proof.Machine

/-- `LD rB, [rA]`: three bytes from the 24-bit base address, most significant first; `x[regB]` is written after the third
read (42_transfer.md R140, D3, D5). -/
def execLd (regA regB : Reg) (s : State) : Result :=
  match s.loadThree (s.loadAddress regA) with
  | none => raiseFault .loadOutOfRange s
  | some w => returnContinue (s.setVal regB w)

/-- `ST [rB], rA`: three bytes, all `0xFF`, at the raw address; the value of `x[regA]` has no effect (42_transfer.md R141,
D3, D4). -/
def execSt (_regA regB : Reg) (s : State) : Result :=
  match storeBytes s (s.storeAddress regB) [storedByte, storedByte, storedByte] with
  | .error left => raiseFault .storeOutOfRange left
  | .ok s' => returnContinue s'

/-- `MOV rB, rA`: all 25 bits, no mask (42_transfer.md R142, D4). -/
def execMov (regA regB : Reg) (s : State) : Result := returnContinue (s.setReg regB (s.reg regA))

/-- `RSV1`: reserved, two-byte no-op (42_transfer.md R143). -/
def execRsv1 (s : State) : Result := returnContinue s

end Sys2Proof.Machine
end

