-- ==== Sys2Proof/Machine/Dispatch.lean ====
section
/-! DEFINITION. The execute controller's dispatch: one arm per instruction (40_step_and_nop.md R112, R113). -/

namespace Sys2Proof.Machine

def exec (i : Instr) (s : State) : Host.Outcome State Fault Refusal :=
  match i with
  | .nop => Sys2Proof.Machine.execNop s
  | .ld regA regB => Sys2Proof.Machine.execLd regA regB s
  | .st regA regB => Sys2Proof.Machine.execSt regA regB s
  | .mov regA regB => Sys2Proof.Machine.execMov regA regB s
  | .rsv1 => Sys2Proof.Machine.execRsv1 s
  | .cmp regA regB => Sys2Proof.Machine.execCmp regA regB s
  | .jmp regA => Sys2Proof.Machine.execJmp regA s
  | .jeq regA => Sys2Proof.Machine.execJeq regA s
  | .jgt regA => Sys2Proof.Machine.execJgt regA s
  | .jf3 regA => Sys2Proof.Machine.execJf3 regA s
  | .jlt regA => Sys2Proof.Machine.execJlt regA s
  | .jf5 regA => Sys2Proof.Machine.execJf5 regA s
  | .rsv3_6 => Sys2Proof.Machine.execRsv3_6 s
  | .rsv3_7 => Sys2Proof.Machine.execRsv3_7 s
  | .rsv3_8 => Sys2Proof.Machine.execRsv3_8 s
  | .rsv3_9 => Sys2Proof.Machine.execRsv3_9 s
  | .rsv3_a => Sys2Proof.Machine.execRsv3_a s
  | .rsv3_b => Sys2Proof.Machine.execRsv3_b s
  | .rsv3_c => Sys2Proof.Machine.execRsv3_c s
  | .rsv3_d => Sys2Proof.Machine.execRsv3_d s
  | .rsv3_e => Sys2Proof.Machine.execRsv3_e s
  | .jne regA => Sys2Proof.Machine.execJne regA s
  | .add regA regB => Sys2Proof.Machine.execAdd regA regB s
  | .sub regA regB => Sys2Proof.Machine.execSub regA regB s
  | .mul regA regB => Sys2Proof.Machine.execMul regA regB s
  | .div regA regB => Sys2Proof.Machine.execDiv regA regB s
  | .mod regA regB => Sys2Proof.Machine.execMod regA regB s
  | .shl regA regB => Sys2Proof.Machine.execShl regA regB s
  | .shr regA regB => Sys2Proof.Machine.execShr regA regB s
  | .or regA regB => Sys2Proof.Machine.execOr regA regB s
  | .and regA regB => Sys2Proof.Machine.execAnd regA regB s
  | .xor regA regB => Sys2Proof.Machine.execXor regA regB s
  | .not regA => Sys2Proof.Machine.execNot regA s
  | .inc regA => Sys2Proof.Machine.execInc regA s
  | .dec regA => Sys2Proof.Machine.execDec regA s
  | .rsv4_d => Sys2Proof.Machine.execRsv4_d s
  | .rsv4_e => Sys2Proof.Machine.execRsv4_e s
  | .rsv4_f => Sys2Proof.Machine.execRsv4_f s
  | .rsv5 => Sys2Proof.Machine.execRsv5 s
  | .rsv6 => Sys2Proof.Machine.execRsv6 s
  | .rsv7 => Sys2Proof.Machine.execRsv7 s
  | .rsv8 => Sys2Proof.Machine.execRsv8 s
  | .rsv9 => Sys2Proof.Machine.execRsv9 s
  | .rsva => Sys2Proof.Machine.execRsva s
  | .rsvb => Sys2Proof.Machine.execRsvb s
  | .rsvc => Sys2Proof.Machine.execRsvc s
  | .rsvd => Sys2Proof.Machine.execRsvd s
  | .hlt => Sys2Proof.Machine.execHlt s
  | .rsve_1 => Sys2Proof.Machine.execRsve_1 s
  | .rsve_2 => Sys2Proof.Machine.execRsve_2 s
  | .rsve_3 => Sys2Proof.Machine.execRsve_3 s
  | .rsve_4 => Sys2Proof.Machine.execRsve_4 s
  | .rsve_5 => Sys2Proof.Machine.execRsve_5 s
  | .rsve_6 => Sys2Proof.Machine.execRsve_6 s
  | .rsve_7 => Sys2Proof.Machine.execRsve_7 s
  | .rsve_8 => Sys2Proof.Machine.execRsve_8 s
  | .rsve_9 => Sys2Proof.Machine.execRsve_9 s
  | .rsve_a => Sys2Proof.Machine.execRsve_a s
  | .rsve_b => Sys2Proof.Machine.execRsve_b s
  | .rsve_c => Sys2Proof.Machine.execRsve_c s
  | .rsve_d => Sys2Proof.Machine.execRsve_d s
  | .rsve_e => Sys2Proof.Machine.execRsve_e s
  | .prt regA => Sys2Proof.Machine.execPrt regA s
  | .ldi d imm => Sys2Proof.Machine.execLdi d imm s

end Sys2Proof.Machine
end

