-- ==== Sys2Proof/Machine/Step.lean ====
section
/-! DEFINITION. One step: fetch, dispatch, execute (40_step_and_nop.md R110), and the host's way to place an instruction. -/

namespace Sys2Proof.Machine

/-- One step: fetch (R111), field extraction and dispatch (R112), then the one instruction, atomically (40_step_and_nop.md
R110). A step asked for after the run has ended is refused (R118, D10, U4; log entry 2). -/
def step (s : State) : Host.Outcome State Fault Refusal :=
  match s.status with
  | .halt => .refused .stepAfterHalt
  | .fault => .refused .stepAfterFault
  | .cont =>
    match fetch s with
    | .error left => raiseFault .fetchOutOfRange left
    | .ok (f, s') => exec f.instr s'

/-- `s` with the opcode table's word stored where the next step fetches: at `pc`, or at address 0 with `pc` moved there when
four bytes do not fit at `pc`; and with the run not ended. This stands for the loader (70_reset_and_hazards.md R272; log
entries 4, 5). -/
def State.withFetchWord (s : State) (nbits w : Nat) : State :=
  let t := if s.pc.toNat + 4 ≤ memSize then s else s.setPc 0
  { t with mem := placeBytes t.mem t.pc.toNat (tableBytes nbits w), status := .cont }

end Sys2Proof.Machine
end

