-- ==== Sys2Proof/Safety.lean ====
section
/-! DEFINITION. The terms claims are made in: what a step leaves unchanged, which cells an instruction may write, when it
faults, the well-formed states, and the runs a host can make. -/

namespace Sys2Proof.Machine

/-! ## Frames -/

/-- Every cell of the register file reads as before, `flags` and `pc` among them. -/
def SameRegs (s t : State) : Prop := ∀ r, t.reg r = s.reg r

/-- Every byte of memory reads as before. -/
def SameMemory (s t : State) : Prop := ∀ a, t.byteAt a = s.byteAt a

/-- Nothing was printed. -/
def SameOutput (s t : State) : Prop := t.out = s.out

/-- Registers, memory and output are as before: the machine's whole state (10_state.md R36). -/
def SameMachine (s t : State) : Prop := SameRegs s t ∧ SameMemory s t ∧ SameOutput s t

/-- The instruction changed nothing and returned `Continue`. -/
def ChangesNothing (s t : State) : Prop := SameMachine s t ∧ t.status = .cont

/-- Every cell but `r`, every byte of memory and the output are as before, and the status is `Continue`. -/
def OnlyCell (r : Reg) (s t : State) : Prop :=
  (∀ q, q ≠ r → t.reg q = s.reg q) ∧ SameMemory s t ∧ SameOutput s t ∧ t.status = .cont

/-- The instruction wrote `v` to cell `r`, changed nothing else, and returned `Continue`. -/
def WritesCell (r : Reg) (v : RawCell) (s t : State) : Prop := t.reg r = v ∧ OnlyCell r s t

/-! ## What an instruction may write, and when it faults -/

/-- The cells an instruction may write besides the fetch's advance of `pc`: at most one (40_step_and_nop.md R113). -/
def cellsWritten : Instr → List Reg
  | .ldi d _ => if validated d then [d] else []
  | .ld _ b | .mov _ b => [b]
  | .cmp _ _ => [flagsReg]
  | .jmp _ | .jeq _ | .jgt _ | .jf3 _ | .jlt _ | .jf5 _ | .jne _ => [pcReg]
  | .add a _ | .sub a _ | .mul a _ | .div a _ | .mod a _ | .shl a _ | .shr a _ => [a]
  | .or a _ | .and a _ | .xor a _ | .not a | .inc a | .dec a => [a]
  | _ => []

/-- The condition under which an instruction raises its own fault, the third column of 60_exceptions.md R240; an instruction
not named there has none (R242). -/
def FaultCondition : Instr → State → Prop
  | .ld a _, s => 0xFFFFFE ≤ s.loadAddress a
  | .st _ b, s => 0xFFFFFE ≤ s.storeAddress b
  | .div _ b, s => s.reg b = 0
  | .mod _ b, s => s.reg b = 0
  | .prt a, s => ∀ q, s.printAddress a ≤ q → q < memSize → s.byteAt q ≠ 0
  | _, _ => False

/-- The no-op instructions: `NOP` and the 36 reserved rows (30_encoding.md R89, 40_step_and_nop.md R114). -/
def noOps : List Instr :=
  [.nop, .rsv1, .rsv3_6, .rsv3_7, .rsv3_8, .rsv3_9, .rsv3_a, .rsv3_b, .rsv3_c, .rsv3_d, .rsv3_e, .rsv4_d, .rsv4_e, .rsv4_f,
   .rsv5, .rsv6, .rsv7, .rsv8, .rsv9, .rsva, .rsvb, .rsvc, .rsvd, .rsve_1, .rsve_2, .rsve_3, .rsve_4, .rsve_5, .rsve_6,
   .rsve_7, .rsve_8, .rsve_9, .rsve_a, .rsve_b, .rsve_c, .rsve_d, .rsve_e]

/-! ## Encodings in statements -/

/-- The byte with the nibble `a` above the nibble `b`, by its number. -/
def nibbles (a b : Fin 16) : Byte := BitVec.ofNat 8 (16 * a.val + b.val)

/-- The bytes are read as the instruction, whatever follows them. -/
def Encodes (bs : List Byte) (i : Instr) : Prop := ∀ rest, decode (bs ++ rest) = .ok (i, rest)

/-- The four bytes from `pc` on, as the fetch would meet them. -/
def State.bytesAtPc (s : State) : List Byte :=
  [s.byteAt s.pc.toNat, s.byteAt (s.pc.toNat + 1), s.byteAt (s.pc.toNat + 2), s.byteAt (s.pc.toNat + 3)]

/-! ## Well-formed states and runs -/

/-- No cell holds a value above `0x1000000` (10_state.md R22). -/
def State.cellsInRange (s : State) : Prop := ∀ i, (s.reg i).toNat ≤ 0x1000000

/-- The memory is in canonical form and the cells are in range. -/
def State.wf (s : State) : Prop := s.mem.wf = true ∧ s.cellsInRange

/-- The values the flags cell holds as long as only `CMP` writes it (10_state.md R31). -/
def State.flagsLegal (s : State) : Prop := s.flags = 0 ∨ s.flags = 1 ∨ s.flags = 2 ∨ s.flags = 4

/-- The state a step leaves, whether it goes on or faults (60_exceptions.md R241). -/
def Leaves (s t : State) : Prop := step s = .next t ∨ ∃ f, step s = .fault f ∧ f.left = t

/-- The instruction the step fetches at `s`, when its fetch succeeds. -/
def Fetches (s : State) (i : Instr) : Prop := ∃ f s', fetch s = .ok (f, s') ∧ f.instr = i

/-- The states of the runs a host can make from a memory image and an initial pc (70_reset_and_hazards.md R270,
40_step_and_nop.md R118). -/
inductive Reachable (image : Memory) (initialPc : Word) : State → Prop where
  /-- the start state -/
  | start : Reachable image initialPc (State.start image initialPc)
  /-- the state a step leaves -/
  | step {s t : State} : Reachable image initialPc s → Leaves s t → Reachable image initialPc t

/-- A run of `n` steps from `s` that ends in no fault (60_exceptions.md R246: a claim about a program takes this as a premise
or proves it). -/
def SafeRun (n : Nat) (s : State) : Prop := ∀ f, core.run n s ≠ .fault f

end Sys2Proof.Machine
end

