-- ==== Sys2Proof/Certificates/Slice0/Obligations.lean ====
section
/-! DEFINITION. The statements about the aurora-isa/soft CORE for the provers. Each docstring names the rule of spec/ it
formalises. `exec i s` is stated for the state `s` AFTER the fetch, in which `pc` already points past the instruction
(40_step_and_nop.md, head); cells, memory and output are those of 10_state.md R36. How the status is held is the model's
choice (log entry 1), and so is that a fault carries the state left behind (log entry 3). -/

open Sys2Proof Sys2Proof.Machine

/-! ## Encoding -/

/-- 30_encoding.md R86, R92: what the encoder writes for an instruction, the decoder reads as that instruction, with every operand
at every value, whatever bytes follow. -/
def Obligations.DecodeInvertsEncode : Prop :=
  ∀ (i : Instr) (rest : List Byte), decode (encode i ++ rest) = .ok (i, rest)

/-- 30_encoding.md R80, R87, R92, the other direction: every canonical encoding (right length, zero in every ignored bit) is the
one the encoder writes for the instruction it decodes to, so the decoder drops no bit but the ignored ones. For the reserved rows,
which R92 gives no syntax, that the encoder writes zero in the ignored bits is the model's choice (log entry 9). -/
def Obligations.EncodeInvertsDecodeOnCanonicalBytes : Prop :=
  ∀ bs : List Byte, canonical bs = true → ∃ i, decode bs = .ok (i, []) ∧ encode i = bs

/-- 30_encoding.md R87, which the spec marks as its own inference: "An ignored field may hold any value". Two encodings under one
row that differ in ignored bits only are read alike: the same instruction, the same bytes consumed, the same rest. -/
def Obligations.IgnoredBitsNeverMatter : Prop :=
  ∀ r ∈ opcodeTable, ∀ b0 b1 c0 c1 : Byte, r.matchesByte b0 = true →
    (b0 ^^^ c0) &&& ~~~r.ignored0 = 0 → (b1 ^^^ c1) &&& ~~~r.ignored1 = 0 →
    ∀ rest, decode (c0 :: c1 :: rest) = decode (b0 :: b1 :: rest)

/-- Clauses 1 and 2, 30_encoding.md R80: the first byte alone tells the length, four bytes when its high nibble is `0xF` and two
otherwise, and the decoder consumes exactly the instruction. Clauses 3 and 4 are the model's choice (log entry 14): a string that
ends before its instruction does is rejected by the name `truncated`. -/
def Obligations.FirstByteTellsLengthAndDecodeIsTotal : Prop :=
  (∀ (b0 b1 : Byte) (rest : List Byte), b0.toNat / 16 ≠ 15 →
    ∃ i, decode (b0 :: b1 :: rest) = .ok (i, rest) ∧ i.length = 2) ∧
  (∀ (b0 b1 b2 b3 : Byte) (rest : List Byte), b0.toNat / 16 = 15 →
    ∃ i, decode (b0 :: b1 :: b2 :: b3 :: rest) = .ok (i, rest) ∧ i.length = 4) ∧
  (∀ bs : List Byte, bs.length < 2 → decode bs = .error .truncated) ∧
  (∀ (b0 b1 : Byte) (rest : List Byte), b0.toNat / 16 = 15 → rest.length < 2 →
    decode (b0 :: b1 :: rest) = .error .truncated)

/-- 30_encoding.md R86: the complete map. "Every value of `b0` appears exactly once": exactly one of the 64 rows matches a first
byte. The decoder reads the instruction of that row, with that row's length, whatever `b1` is. -/
def Obligations.DecoderFollowsTheOpcodeTable : Prop :=
  opcodeTable.length = 64 ∧ (∀ b0 : Byte, (opcodeTable.filter (·.matchesByte b0)).length = 1) ∧
  ∀ r ∈ opcodeTable, ∀ b0 b1 b2 b3 : Byte, r.matchesByte b0 = true →
    (decodeBytes b0 b1 b2 b3).mnemonic = r.mnemonic ∧ (decodeBytes b0 b1 b2 b3).length = r.length

/-- Words written out from the encoding tables of 30_encoding.md R81, R82, R92 (`LD r2, [r1]` with its two ignored bits set, `CMP
r1, r2` with `p2 = 0xF`, `JNE r3`, `SHR r1, r2`, `PRT r1`, `LDI r3, 0x123456`, a reserved word). -/
def Obligations.WordsOfTheEncodingTablesDecode : Prop :=
  decode [0b00010011, 0b00010010] = .ok (.ld 1 2, []) ∧
  decode [0b00101111, 0b00010010] = .ok (.cmp 1 2, []) ∧
  decode [0b00111111, 0b00110000] = .ok (.jne 3, []) ∧
  decode [0b01000110, 0b00010010] = .ok (.shr 1 2, []) ∧
  decode [0b11101111, 0b00010000] = .ok (.prt 1, []) ∧
  decode [0b11110011, 0x56, 0x34, 0x12] = .ok (.ldi 3 0x123456, []) ∧
  decode [0b00011100, 0b11111111] = .ok (.rsv1, [])

/-- 30_encoding.md R92, the syntax table's columns `b0`, `b1`, `b2 b3`, row by row: the bytes of each of its instructions, with the
register pair in `b1`, zero in every ignored bit, and the immediate of `LDI` low byte first. The table's one-line effects are the
statements about the single instructions below. -/
def Obligations.EncoderWritesTheBytesOfTheSyntaxTable : Prop :=
  ∀ (a b d : Reg) (imm : Word),
    encode .nop = [0x00, 0x00] ∧ encode (.ld a b) = [0x10, nibbles a b] ∧ encode (.st a b) = [0x14, nibbles a b] ∧
    encode (.mov a b) = [0x18, nibbles a b] ∧ encode (.cmp a b) = [0x20, nibbles a b] ∧
    encode (.jmp a) = [0x30, nibbles a 0] ∧ encode (.jeq a) = [0x31, nibbles a 0] ∧ encode (.jgt a) = [0x32, nibbles a 0] ∧
    encode (.jf3 a) = [0x33, nibbles a 0] ∧ encode (.jlt a) = [0x34, nibbles a 0] ∧ encode (.jf5 a) = [0x35, nibbles a 0] ∧
    encode (.jne a) = [0x3F, nibbles a 0] ∧ encode (.add a b) = [0x40, nibbles a b] ∧
    encode (.sub a b) = [0x41, nibbles a b] ∧ encode (.mul a b) = [0x42, nibbles a b] ∧
    encode (.div a b) = [0x43, nibbles a b] ∧ encode (.mod a b) = [0x44, nibbles a b] ∧
    encode (.shl a b) = [0x45, nibbles a b] ∧ encode (.shr a b) = [0x46, nibbles a b] ∧
    encode (.or a b) = [0x47, nibbles a b] ∧ encode (.and a b) = [0x48, nibbles a b] ∧
    encode (.xor a b) = [0x49, nibbles a b] ∧ encode (.not a) = [0x4A, nibbles a 0] ∧ encode (.inc a) = [0x4B, nibbles a 0] ∧
    encode (.dec a) = [0x4C, nibbles a 0] ∧ encode .hlt = [0xE0, 0x00] ∧ encode (.prt a) = [0xEF, nibbles a 0] ∧
    encode (.ldi d imm) = [BitVec.ofNat 8 (0xF0 + d.val), BitVec.ofNat 8 imm.toNat, BitVec.ofNat 8 (imm.toNat / 256),
      BitVec.ofNat 8 (imm.toNat / 65536)]

/-! ## The step -/

/-- 40_step_and_nop.md R110 to R112: when the bytes at `pc` are read as the instruction `i` and all of them lie inside memory, the
step is the execution of `i` in the state whose `pc` is past it and which is otherwise the old one. -/
def Obligations.StepRunsTheDecodedInstruction : Prop :=
  ∀ (s : State) (i : Instr) (rest : List Byte), s.status = .cont →
    decode s.bytesAtPc = .ok (i, rest) → s.pc.toNat + i.length ≤ 0x1000000 →
    step s = exec i (s.setPc (s.pc + BitVec.ofNat 25 i.length))

/-- 40_step_and_nop.md R116, row by row: the fetch faults, with `pc` left at the faulting value and nothing else changed, and the
last instructions that still fit execute with `pc = 0x1000000`. -/
def Obligations.FetchAtTheTopOfMemory : Prop :=
  ∀ s : State, s.status = .cont →
    (0x1000000 ≤ s.pc.toNat → step s = .fault (.fetchOutOfRange (s.withStatus .fault))) ∧
    (s.pc = 0xFFFFFF → step s = .fault (.fetchOutOfRange ((s.setPc 0x1000000).withStatus .fault))) ∧
    (s.pc = 0xFFFFFE → (s.byteAt 0xFFFFFE).toNat / 16 = 15 →
      step s = .fault (.fetchOutOfRange ((s.setPc 0x1000000).withStatus .fault))) ∧
    (s.pc = 0xFFFFFD → (s.byteAt 0xFFFFFD).toNat / 16 = 15 →
      step s = .fault (.fetchOutOfRange ((s.setPc 0x1000000).withStatus .fault))) ∧
    (s.pc = 0xFFFFFE → (s.byteAt 0xFFFFFE).toNat / 16 ≠ 15 →
      ∃ i, decode [s.byteAt 0xFFFFFE, s.byteAt 0xFFFFFF] = .ok (i, []) ∧ step s = exec i (s.setPc 0x1000000)) ∧
    (s.pc = 0xFFFFFC → (s.byteAt 0xFFFFFC).toNat / 16 = 15 →
      ∃ i, decode [s.byteAt 0xFFFFFC, s.byteAt 0xFFFFFD, s.byteAt 0xFFFFFE, s.byteAt 0xFFFFFF] = .ok (i, []) ∧
        step s = exec i (s.setPc 0x1000000))

/-- The model's reading of U4 "refuse" (92_eei_decisions.md D10; log entry 2): a step asked for after `Halt` or `Fault` has no
meaning. -/
def Obligations.NoStepAfterTheEndOfTheRun : Prop :=
  ∀ s : State, (s.status = .halt → step s = .refused .stepAfterHalt) ∧
    (s.status = .fault → step s = .refused .stepAfterFault)

/-- 41_immediate_load.md R131, R133, at the step: `LDI` with `d` in 0 to 9 or 14 sets the cell and advances `pc` by 4; with `d` =
15 it ends with `pc` at the immediate; with `d` in 10 to 13 it advances `pc` by 4 and leaves all other cells. -/
def Obligations.LdiStepSetsCellAndAdvancesByFour : Prop :=
  ∀ (s : State) (d : Reg), s.status = .cont → s.pc.toNat + 4 ≤ 0x1000000 →
    s.byteAt s.pc.toNat = nibbles 15 d →
    ∃ t, step s = .next t ∧ t.status = .cont ∧ SameMemory s t ∧ SameOutput s t ∧
      (∀ q, q ≠ d → q ≠ pcReg → t.reg q = s.reg q) ∧
      (d ≤ 9 ∨ d = 14 ∨ d = 15 → (t.reg d).toNat =
        (s.byteAt (s.pc.toNat + 3)).toNat * 65536 + (s.byteAt (s.pc.toNat + 2)).toNat * 256 +
          (s.byteAt (s.pc.toNat + 1)).toNat) ∧
      (10 ≤ d ∧ d ≤ 13 → t.reg d = s.reg d) ∧
      (d ≠ 15 → t.pc.toNat = s.pc.toNat + 4)

/-- 20_memory.md R62 with the case of 42_transfer.md R141 (4): an `ST` through `pc` overwrites the three bytes after itself, and
the very next step fetches the new bytes: `LDI r15` with the fourth byte as its high immediate byte. -/
def Obligations.StoreIsSeenByTheNextFetch : Prop :=
  ∀ (s : State) (a : Reg), s.status = .cont → s.pc.toNat + 6 ≤ 0x1000000 →
    decode s.bytesAtPc = .ok (.st a pcReg, [s.byteAt (s.pc.toNat + 2), s.byteAt (s.pc.toNat + 3)]) →
    ∃ t u, step s = .next t ∧ step t = .next u ∧
      u.pc.toNat = (s.byteAt (s.pc.toNat + 5)).toNat * 65536 + 0xFFFF ∧
      ∀ q, q ≠ pcReg → u.reg q = s.reg q

/-- 10_state.md R26 and 42_transfer.md R142 (2): an instruction that reads `pc` sees the address of the next instruction. -/
def Obligations.MovFromPcGivesTheNextAddress : Prop :=
  ∀ (s : State) (b : Reg) (rest : List Byte), s.status = .cont → s.pc.toNat + 2 ≤ 0x1000000 → b ≠ pcReg →
    decode s.bytesAtPc = .ok (.mov pcReg b, rest) →
    ∃ t, step s = .next t ∧ (t.reg b).toNat = s.pc.toNat + 2 ∧ (t.reg pcReg).toNat = s.pc.toNat + 2 ∧
      (∀ q, q ≠ b → q ≠ pcReg → t.reg q = s.reg q)

/-! ## The instructions -/

/-- 30_encoding.md R89, and 40_step_and_nop.md R114 for `NOP`: the first bytes of the reserved encodings and of `NOP` are read as
no-op instructions of two bytes, and each of them changes nothing and returns `Continue`. -/
def Obligations.NopAndReservedEncodingsChangeNothing : Prop :=
  (∀ i ∈ noOps, ∀ s : State, ∃ t, exec i s = .next t ∧ ChangesNothing s t) ∧
  (∀ (b0 b1 : Byte) (rest : List Byte),
    (b0.toNat ≤ 0x0F ∨ (0x1C ≤ b0.toNat ∧ b0.toNat ≤ 0x1F) ∨ (0x36 ≤ b0.toNat ∧ b0.toNat ≤ 0x3E) ∨
      (0x4D ≤ b0.toNat ∧ b0.toNat ≤ 0xDF) ∨ (0xE1 ≤ b0.toNat ∧ b0.toNat ≤ 0xEE)) →
    ∃ i ∈ noOps, decode (b0 :: b1 :: rest) = .ok (i, rest))

/-- 41_immediate_load.md R130: the encoding, the validated destinations, and the ignored ones. -/
def Obligations.LdiWritesValidatedDestinationsOnly : Prop :=
  (∀ (d : Reg) (b1 b2 b3 : Byte), ∃ imm : Word,
    Encodes [nibbles 15 d, b1, b2, b3] (.ldi d imm) ∧ imm.toNat = b3.toNat * 65536 + b2.toNat * 256 + b1.toNat) ∧
  (∀ (d : Reg) (imm : Word) (s : State), d ≤ 9 ∨ d = 14 ∨ d = 15 →
    ∃ t, exec (.ldi d imm) s = .next t ∧ WritesCell d (BitVec.ofNat 25 imm.toNat) s t) ∧
  (∀ (d : Reg) (imm : Word) (s : State), 10 ≤ d ∧ d ≤ 13 →
    ∃ t, exec (.ldi d imm) s = .next t ∧ ChangesNothing s t)

/-- 42_transfer.md R140: the encoding, the big-endian load from the 24-bit base, and the fault that writes no register. -/
def Obligations.LdLoadsThreeBytesHighFirst : Prop :=
  (∀ (x : Fin 4) (a b : Reg), Encodes [BitVec.ofNat 8 (0x10 + x.val), nibbles a b] (.ld a b)) ∧
  (∀ (a : Reg) (s : State), s.loadAddress a = (s.reg a).toNat % 0x1000000) ∧
  (∀ (a b : Reg) (s : State), s.loadAddress a ≤ 0xFFFFFD →
    ∃ t, exec (.ld a b) s = .next t ∧
      WritesCell b (BitVec.ofNat 25 ((s.byteAt (s.loadAddress a)).toNat * 65536 +
        (s.byteAt (s.loadAddress a + 1)).toNat * 256 + (s.byteAt (s.loadAddress a + 2)).toNat)) s t) ∧
  (∀ (a b : Reg) (s : State), 0xFFFFFE ≤ s.loadAddress a →
    ∃ u, exec (.ld a b) s = .fault (.loadOutOfRange u) ∧ SameMachine s u ∧ u.status = .fault)

/-- 42_transfer.md R141: the encoding, the three bytes at the raw address `x[regB]`, all `0xFF` whatever `x[regA]` holds, and the
fault that leaves the bytes at valid addresses written. -/
def Obligations.StWritesThreeBytesOfFF : Prop :=
  (∀ (x : Fin 4) (a b : Reg), Encodes [BitVec.ofNat 8 (0x14 + x.val), nibbles a b] (.st a b)) ∧
  (∀ (b : Reg) (s : State), s.storeAddress b = (s.reg b).toNat) ∧
  (∀ (a b : Reg) (s : State), s.storeAddress b ≤ 0xFFFFFD →
    ∃ t, exec (.st a b) s = .next t ∧ SameRegs s t ∧ SameOutput s t ∧ t.status = .cont ∧
      (∀ q, s.storeAddress b ≤ q ∧ q < s.storeAddress b + 3 → t.byteAt q = 0xFF) ∧
      (∀ q, ¬ (s.storeAddress b ≤ q ∧ q < s.storeAddress b + 3) → t.byteAt q = s.byteAt q)) ∧
  (∀ (a b : Reg) (s : State), 0xFFFFFE ≤ s.storeAddress b →
    ∃ u, exec (.st a b) s = .fault (.storeOutOfRange u) ∧ SameRegs s u ∧ SameOutput s u ∧ u.status = .fault ∧
      (∀ q, s.storeAddress b ≤ q ∧ q < 0x1000000 → u.byteAt q = 0xFF) ∧
      (∀ q, ¬ (s.storeAddress b ≤ q ∧ q < 0x1000000) → u.byteAt q = s.byteAt q))

/-- 42_transfer.md R142: the encoding, and the copy of all 25 bits. -/
def Obligations.MovCopiesTheRawCell : Prop :=
  (∀ (x : Fin 4) (a b : Reg), Encodes [BitVec.ofNat 8 (0x18 + x.val), nibbles a b] (.mov a b)) ∧
  (∀ (a b : Reg) (s : State), ∃ t, exec (.mov a b) s = .next t ∧ WritesCell b (s.reg a) s t)

/-- 43_compare.md R160: the encoding, the clear before the operands are read (an operand naming cell 14 reads 0), the unsigned
order of the 24-bit values, and exactly one bit set. -/
def Obligations.CmpSetsExactlyOneFlag : Prop :=
  (∀ (p2 : Fin 16) (a b : Reg), Encodes [nibbles 2 p2, nibbles a b] (.cmp a b)) ∧
  (∀ (a b : Reg) (s : State),
    let va := if a = flagsReg then 0 else (s.reg a).toNat % 0x1000000
    let vb := if b = flagsReg then 0 else (s.reg b).toNat % 0x1000000
    ∃ t, exec (.cmp a b) s = .next t ∧
      WritesCell flagsReg (if va = vb then 1 else if vb < va then 2 else 4) s t)

/-- 44_jump.md R170: the encoding, and the raw copy into cell 15. -/
def Obligations.JmpCopiesTheTargetToPc : Prop :=
  (∀ (a : Reg) (x : Fin 16), Encodes [0x30, nibbles a x] (.jmp a)) ∧
  (∀ (a : Reg) (s : State), ∃ t, exec (.jmp a) s = .next t ∧ WritesCell pcReg (s.reg a) s t)

/-- 44_jump.md R171 to R175: `JEQ`, `JGT`, `JF3`, `JLT`, `JF5` jump exactly when the whole flags cell equals 1, 2, 3, 4, 5;
otherwise they change nothing. -/
def Obligations.EqualityJumpsCompareTheWholeFlagsCell : Prop :=
  (∀ (a : Reg) (x : Fin 16), Encodes [0x31, nibbles a x] (.jeq a) ∧ Encodes [0x32, nibbles a x] (.jgt a) ∧
    Encodes [0x33, nibbles a x] (.jf3 a) ∧ Encodes [0x34, nibbles a x] (.jlt a) ∧ Encodes [0x35, nibbles a x] (.jf5 a)) ∧
  (∀ (a : Reg) (s : State),
    (∃ t, exec (.jeq a) s = .next t ∧
      if (s.reg flagsReg).toNat = 1 then WritesCell pcReg (s.reg a) s t else ChangesNothing s t) ∧
    (∃ t, exec (.jgt a) s = .next t ∧
      if (s.reg flagsReg).toNat = 2 then WritesCell pcReg (s.reg a) s t else ChangesNothing s t) ∧
    (∃ t, exec (.jf3 a) s = .next t ∧
      if (s.reg flagsReg).toNat = 3 then WritesCell pcReg (s.reg a) s t else ChangesNothing s t) ∧
    (∃ t, exec (.jlt a) s = .next t ∧
      if (s.reg flagsReg).toNat = 4 then WritesCell pcReg (s.reg a) s t else ChangesNothing s t) ∧
    (∃ t, exec (.jf5 a) s = .next t ∧
      if (s.reg flagsReg).toNat = 5 then WritesCell pcReg (s.reg a) s t else ChangesNothing s t))

/-- 44_jump.md R176: `JNE` jumps exactly when the whole flags cell differs from 1. -/
def Obligations.JneJumpsUnlessTheFlagsCellIsOne : Prop :=
  (∀ (a : Reg) (x : Fin 16), Encodes [0x3F, nibbles a x] (.jne a)) ∧
  (∀ (a : Reg) (s : State), ∃ t, exec (.jne a) s = .next t ∧
    if (s.reg flagsReg).toNat = 1 then ChangesNothing s t else WritesCell pcReg (s.reg a) s t)

/-- 45_alu.md R195, R196, R197, R206, R207: the exact sum, difference, product, successor and predecessor of the raw cells, taken
modulo 2^24, go to the left operand's cell; nothing else changes, no flag either. -/
def Obligations.ArithmeticIsExactModuloTwoTo24 : Prop :=
  (∀ (a b : Reg), Encodes [0x40, nibbles a b] (.add a b) ∧ Encodes [0x41, nibbles a b] (.sub a b) ∧
    Encodes [0x42, nibbles a b] (.mul a b) ∧ Encodes [0x4B, nibbles a b] (.inc a) ∧ Encodes [0x4C, nibbles a b] (.dec a)) ∧
  (∀ (a b : Reg) (s : State),
    (∃ t, exec (.add a b) s = .next t ∧
      WritesCell a (BitVec.ofNat 25 (((s.reg a).toNat + (s.reg b).toNat) % 0x1000000)) s t) ∧
    (∃ t, exec (.sub a b) s = .next t ∧
      WritesCell a (BitVec.ofInt 25 ((((s.reg a).toNat : Int) - (s.reg b).toNat) % 0x1000000)) s t) ∧
    (∃ t, exec (.mul a b) s = .next t ∧
      WritesCell a (BitVec.ofNat 25 (((s.reg a).toNat * (s.reg b).toNat) % 0x1000000)) s t) ∧
    (∃ t, exec (.inc a) s = .next t ∧
      WritesCell a (BitVec.ofNat 25 (((s.reg a).toNat + 1) % 0x1000000)) s t) ∧
    (∃ t, exec (.dec a) s = .next t ∧
      WritesCell a (BitVec.ofInt 25 ((((s.reg a).toNat : Int) - 1) % 0x1000000)) s t))

/-- 45_alu.md R194, R198, R199: quotient and remainder of the raw cells when the divisor cell is not zero; otherwise the fault,
with the destination not written and nothing else changed. -/
def Obligations.DivAndModOrDivideByZero : Prop :=
  (∀ (a b : Reg), Encodes [0x43, nibbles a b] (.div a b) ∧ Encodes [0x44, nibbles a b] (.mod a b)) ∧
  (∀ (a b : Reg) (s : State), s.reg b ≠ 0 →
    (∃ t, exec (.div a b) s = .next t ∧
      WritesCell a (BitVec.ofNat 25 (((s.reg a).toNat / (s.reg b).toNat) % 0x1000000)) s t) ∧
    (∃ t, exec (.mod a b) s = .next t ∧
      WritesCell a (BitVec.ofNat 25 (((s.reg a).toNat % (s.reg b).toNat) % 0x1000000)) s t)) ∧
  (∀ (a b : Reg) (s : State), s.reg b = 0 →
    (∃ u, exec (.div a b) s = .fault (.divideByZero u) ∧ SameMachine s u ∧ u.status = .fault) ∧
    (∃ u, exec (.mod a b) s = .fault (.divideByZero u) ∧ SameMachine s u ∧ u.status = .fault))

/-- 45_alu.md R192, R200, R201: shifts by the whole cell, never reduced: the exact result `a × 2^b` or the floor of `a / 2^b`,
modulo 2^24, for every amount a cell can hold; 0 from 24 (`SHL`) or 25 (`SHR`) on. -/
def Obligations.ShiftsTakeTheWholeCellAsAmount : Prop :=
  (∀ (a b : Reg), Encodes [0x45, nibbles a b] (.shl a b) ∧ Encodes [0x46, nibbles a b] (.shr a b)) ∧
  (∀ (a b : Reg) (s : State),
    (∃ t, exec (.shl a b) s = .next t ∧
      WritesCell a (BitVec.ofNat 25 (((s.reg a).toNat * 2 ^ (s.reg b).toNat) % 0x1000000)) s t ∧
      (24 ≤ (s.reg b).toNat → t.reg a = 0)) ∧
    (∃ t, exec (.shr a b) s = .next t ∧
      WritesCell a (BitVec.ofNat 25 (((s.reg a).toNat / 2 ^ (s.reg b).toNat) % 0x1000000)) s t ∧
      (25 ≤ (s.reg b).toNat → t.reg a = 0) ∧
      ((s.reg b).toNat = 24 → (s.reg a).toNat < 0x1000000 → t.reg a = 0)))

/-- 45_alu.md R202 to R205: bit `i` of the result, for `i` in 0 to 23, is the logical function of bits `i` of the operands, and
the guard bit of the result is 0. -/
def Obligations.LogicIsBitwiseWithGuardBitClear : Prop :=
  (∀ (a b : Reg), Encodes [0x47, nibbles a b] (.or a b) ∧ Encodes [0x48, nibbles a b] (.and a b) ∧
    Encodes [0x49, nibbles a b] (.xor a b) ∧ Encodes [0x4A, nibbles a b] (.not a)) ∧
  (∀ (a b : Reg) (s : State),
    (∃ t, exec (.or a b) s = .next t ∧ OnlyCell a s t ∧ (t.reg a).getLsbD 24 = false ∧
      ∀ i < 24, (t.reg a).getLsbD i = ((s.reg a).getLsbD i || (s.reg b).getLsbD i)) ∧
    (∃ t, exec (.and a b) s = .next t ∧ OnlyCell a s t ∧ (t.reg a).getLsbD 24 = false ∧
      ∀ i < 24, (t.reg a).getLsbD i = ((s.reg a).getLsbD i && (s.reg b).getLsbD i)) ∧
    (∃ t, exec (.xor a b) s = .next t ∧ OnlyCell a s t ∧ (t.reg a).getLsbD 24 = false ∧
      ∀ i < 24, (t.reg a).getLsbD i = ((s.reg a).getLsbD i ^^ (s.reg b).getLsbD i)) ∧
    (∃ t, exec (.not a) s = .next t ∧ OnlyCell a s t ∧ (t.reg a).getLsbD 24 = false ∧
      ∀ i < 24, (t.reg a).getLsbD i = !(s.reg a).getLsbD i))

/-- 46_system.md R220: the encoding, status Halt, and no other mutation. -/
def Obligations.HltReportsHaltAndChangesNothing : Prop :=
  (∀ b1 : Byte, Encodes [0xE0, b1] .hlt) ∧
  (∀ s : State, ∃ t, exec .hlt s = .next t ∧ SameMachine s t ∧ t.status = .halt)

/-- 46_system.md R222, R224: the encoding; the bytes from `x[regA]` up to, but not including, the first zero byte are appended to
the output, in order and unchanged; and when no zero byte lies between the start address and the end of memory, the fault,
with all those bytes emitted. Registers and memory are unchanged in both cases. -/
def Obligations.PrtEmitsUpToTheFirstZeroByte : Prop :=
  (∀ (a : Reg) (x : Fin 16), Encodes [0xEF, nibbles a x] (.prt a)) ∧
  (∀ (a : Reg) (s : State), s.printAddress a = (s.reg a).toNat) ∧
  (∀ (a : Reg) (s : State) (n : Nat), s.printAddress a + n < 0x1000000 → s.byteAt (s.printAddress a + n) = 0 →
    (∀ k < n, s.byteAt (s.printAddress a + k) ≠ 0) →
    ∃ t, exec (.prt a) s = .next t ∧ SameRegs s t ∧ SameMemory s t ∧ t.status = .cont ∧
      t.out = s.out ++ (List.range n).map fun k => s.byteAt (s.printAddress a + k)) ∧
  (∀ (a : Reg) (s : State), (∀ q, s.printAddress a ≤ q → q < 0x1000000 → s.byteAt q ≠ 0) →
    ∃ u, exec (.prt a) s = .fault (.printOutOfRange u) ∧ SameRegs s u ∧ SameMemory s u ∧ u.status = .fault ∧
      u.out = s.out ++ (List.range (0x1000000 - s.printAddress a)).map fun k => s.byteAt (s.printAddress a + k))

/-- 20_memory.md R51, which the spec marks as its own inference from R50: three bytes at ascending addresses are one value to `LD`
and the reverse to `LDI`. -/
def Obligations.LdAndLdiReadOppositeByteOrders : Prop :=
  ∀ (x y z : Byte) (a b d : Reg) (s : State), s.loadAddress a ≤ 0xFFFFFD →
    s.byteAt (s.loadAddress a) = x → s.byteAt (s.loadAddress a + 1) = y → s.byteAt (s.loadAddress a + 2) = z →
    (∃ t, exec (.ld a b) s = .next t ∧ (t.reg b).toNat = x.toNat * 65536 + y.toNat * 256 + z.toNat) ∧
    (∃ imm : Word, Encodes [nibbles 15 d, x, y, z] (.ldi d imm) ∧
      imm.toNat = z.toNat * 65536 + y.toNat * 256 + x.toNat)

/-! ## Flags -/

/-- 43_compare.md R161, the outcome table: after a `CMP` the flags cell is 1, 2 or 4 by the order of the 24-bit operands (an
operand naming cell 14 is read after the clear, R160), and each conditional jump is taken or not as the row says; a
conditional jump is taken exactly when it copies its target to `pc`, and not taken exactly when it changes nothing. The last
row is the flags cell before any `CMP`. -/
def Obligations.CompareOutcomeTable : Prop :=
  let taken (j : Reg → Instr) (t : State) := ∀ r, ∃ u, exec (j r) t = .next u ∧ WritesCell pcReg (t.reg r) t u
  let notTaken (j : Reg → Instr) (t : State) := ∀ r, ∃ u, exec (j r) t = .next u ∧ ChangesNothing t u
  (∀ (a b : Reg) (s t : State), exec (.cmp a b) s = .next t →
    let va := if a = flagsReg then 0 else (s.reg a).toNat % 0x1000000
    let vb := if b = flagsReg then 0 else (s.reg b).toNat % 0x1000000
    (va = vb → t.reg flagsReg = 1 ∧ taken .jeq t ∧ notTaken .jgt t ∧
      notTaken .jlt t ∧ notTaken .jne t ∧ notTaken .jf3 t ∧ notTaken .jf5 t) ∧
    (vb < va → t.reg flagsReg = 2 ∧ notTaken .jeq t ∧ taken .jgt t ∧
      notTaken .jlt t ∧ taken .jne t ∧ notTaken .jf3 t ∧ notTaken .jf5 t) ∧
    (va < vb → t.reg flagsReg = 4 ∧ notTaken .jeq t ∧ notTaken .jgt t ∧
      taken .jlt t ∧ taken .jne t ∧ notTaken .jf3 t ∧ notTaken .jf5 t)) ∧
  (∀ t : State, t.reg flagsReg = 0 → notTaken .jeq t ∧ notTaken .jgt t ∧ notTaken .jlt t ∧ taken .jne t ∧ notTaken .jf3 t ∧
    notTaken .jf5 t)

/-- 10_state.md R31, which the spec marks as its own inference: the flags cell is one of 0, 1, 2, 4 and stays so in every step
whose instruction is a `CMP` or does not name cell 14 as a destination, whether the step goes on or faults. -/
def Obligations.FlagsStayLegalUnlessNamed : Prop :=
  ∀ s t : State, s.flagsLegal → Leaves s t →
    (∀ i, Fetches s i → flagsReg ∈ cellsWritten i → ∃ a b, i = .cmp a b) → t.flagsLegal

/-! ## What no instruction does -/

/-- 40_step_and_nop.md R113, which the spec marks as its own inference: an instruction that goes on has written at most one cell,
the one its row of the table names; memory only if it is an `ST`, and then only at the three addresses from `x[regB]`; the
output only if it is a `PRT`. -/
def Obligations.OnlyTheNamedResultIsWritten : Prop :=
  ∀ (i : Instr) (s t : State), exec i s = .next t →
    (cellsWritten i).length ≤ 1 ∧ (∀ q, q ∉ cellsWritten i → t.reg q = s.reg q) ∧
    (∀ q, (∀ a b, i = .st a b → ¬ (s.storeAddress b ≤ q ∧ q < s.storeAddress b + 3)) → t.byteAt q = s.byteAt q) ∧
    ((∀ a, i ≠ .prt a) → t.out = s.out)

/-- 46_system.md R221 and 30_encoding.md R88: no instruction is refused, `Halt` comes only from `HLT`, a next state never has
status Fault, and no instruction's own fault is a fetch fault. -/
def Obligations.OnlyHltHaltsAndNothingIsRefused : Prop :=
  ∀ (i : Instr) (s : State), (∀ r, exec i s ≠ .refused r) ∧
    (∀ t, exec i s = .next t → t.status ≠ .fault ∧ (t.status = .halt ↔ i = .hlt)) ∧
    (∀ f, exec i s = .fault f → f.left.status = .fault ∧ f ≠ .fetchOutOfRange f.left)

/-- 60_exceptions.md R240, R242: an instruction faults exactly under the condition its row names, with the cause its row names; an
instruction without a row never faults. -/
def Obligations.FaultsExactlyUnderTheListedConditions : Prop :=
  ∀ (i : Instr) (s : State), ((∃ f, exec i s = .fault f) ↔ FaultCondition i s) ∧
    ∀ f, exec i s = .fault f →
      (f = .loadOutOfRange f.left ∧ ∃ a b, i = .ld a b) ∨ (f = .storeOutOfRange f.left ∧ ∃ a b, i = .st a b) ∨
      (f = .divideByZero f.left ∧ ∃ a b, i = .div a b ∨ i = .mod a b) ∨ (f = .printOutOfRange f.left ∧ ∃ a, i = .prt a)

/-- 10_state.md R22, second and third sentence, which the spec marks as its own inference: no instruction makes a value above
`0xFFFFFF`; a cell that holds one after the instruction holds a copy of a cell that held it before. Only a `MOV` or a jump can
put it into another cell. -/
def Obligations.OnlyCopiesCarryTheGuardBit : Prop :=
  ∀ (i : Instr) (s t : State), exec i s = .next t → ∀ q, 0x1000000 ≤ (t.reg q).toNat →
    t.reg q = s.reg q ∨
      ∃ a, t.reg q = s.reg a ∧ (i = .mov a q ∨ (q = pcReg ∧ (i = .jmp a ∨ i = .jeq a ∨ i = .jgt a ∨ i = .jf3 a ∨ i = .jlt a ∨
        i = .jf5 a ∨ i = .jne a)))

/-- 45_alu.md R193: a guard bit in an operand cannot influence the result of `ADD`, `SUB`, `MUL`, `OR`, `AND`, `XOR`, `NOT`,
`INC`, `DEC`, nor one in the left operand the result of `SHL`: two states that agree in the low 24 bits of the operand cells
get the same result. -/
def Obligations.GuardBitsDoNotReachTheAluResult : Prop :=
  ∀ (a b : Reg) (s s' : State), s.val a = s'.val a → s.val b = s'.val b →
    (∀ i ∈ [Instr.add a b, .sub a b, .mul a b, .or a b, .and a b, .xor a b, .not a, .inc a, .dec a],
      ∃ t t', exec i s = .next t ∧ exec i s' = .next t' ∧ t.reg a = t'.reg a) ∧
    (s.reg b = s'.reg b → ∃ t t', exec (.shl a b) s = .next t ∧ exec (.shl a b) s' = .next t' ∧ t.reg a = t'.reg a)

/-- 45_alu.md R191: for 24-bit operands the quotient and the remainder satisfy `a = (a div b) × b + (a mod b)` with `0 <= a mod b
< b`. -/
def Obligations.QuotientAndRemainderRebuildTheDividend : Prop :=
  ∀ (a b : Reg) (s : State), (s.reg a).toNat < 0x1000000 → (s.reg b).toNat < 0x1000000 → s.reg b ≠ 0 →
    ∃ t t', exec (.div a b) s = .next t ∧ exec (.mod a b) s = .next t' ∧
      (s.reg a).toNat = (t.reg a).toNat * (s.reg b).toNat + (t'.reg a).toNat ∧ (t'.reg a).toNat < (s.reg b).toNat

/-! ## Invariants of every step -/

/-- 10_state.md R22, which the spec marks as its own inference, and log entry 7, the model's own form of memory: from every state
whose cells are at most `0x1000000` and whose memory is in canonical form, the state a step leaves, going on or faulting, is
such a state. -/
def Obligations.StepKeepsCellsInRangeAndMemoryCanonical : Prop :=
  ∀ s t : State, s.wf → Leaves s t → t.wf

/-- 10_state.md R35 and 70_reset_and_hazards.md R270 give these states their cells: the state after `create()`, and the start state
of every canonical image and every initial pc, are such states. That memory is a list in canonical form is the model's choice (log
entry 7), and so the image must be canonical (log entry 4). -/
def Obligations.ResetAndStartAreWellFormed : Prop :=
  State.reset.wf ∧ ∀ (image : Memory) (initialPc : Word), image.wf = true → (State.start image initialPc).wf

/-- 10_state.md R22, first sentence, which the spec marks as its own inference: `x[i] <= 0x1000000` for every `i`, at every point
of every run, from every memory image and every initial pc (both arguments of the start state, log entry 4). It follows from
the cells' half of the step lemma `StepKeepsCellsInRangeAndMemoryCanonical` and of the start state's. -/
def Obligations.CellsStayInRangeInEveryRun : Prop :=
  ∀ (image : Memory) (initialPc : Word) (s : State), Reachable image initialPc s → ∀ i, (s.reg i).toNat ≤ 0x1000000

/-- 42_transfer.md R141 over the whole machine: a step changes a byte of memory only to `0xFF`, and only when the instruction it
fetched is an `ST`, at one of the three addresses from the address cell as the fetch left it. -/
def Obligations.OnlyStoresChangeMemoryAndOnlyToFF : Prop :=
  ∀ (s t : State) (q : Nat), Leaves s t → t.byteAt q ≠ s.byteAt q →
    t.byteAt q = 0xFF ∧ ∃ f s' a b, fetch s = .ok (f, s') ∧ f.instr = .st a b ∧
      s'.storeAddress b ≤ q ∧ q < s'.storeAddress b + 3 ∧ q < 0x1000000

/-- 10_state.md R33 and 46_system.md R224 over the whole machine: the output only grows, by bytes that are never zero, and only
when the instruction fetched is a `PRT`. -/
def Obligations.OutputOnlyGrowsAndOnlyByPrt : Prop :=
  ∀ s t : State, Leaves s t →
    ∃ bs : List Byte, t.out = s.out ++ bs ∧ (0 : Byte) ∉ bs ∧ (bs ≠ [] → ∃ a, Fetches s (.prt a))

/-- 10_state.md R26, and R27, which the spec marks as its own inference: a step that goes on and whose instruction does not write
cell 15 leaves `pc` past the instruction; a conditional jump leaves it there or at its target. -/
def Obligations.StepAdvancesPcByTheInstructionLength : Prop :=
  ∀ (s t : State) (i : Instr), Fetches s i → step s = .next t →
    s.pc.toNat + i.length ≤ 0x1000000 ∧
    (pcReg ∉ cellsWritten i → t.pc.toNat = s.pc.toNat + i.length) ∧
    (∀ a, i = .jeq a ∨ i = .jgt a ∨ i = .jf3 a ∨ i = .jlt a ∨ i = .jf5 a ∨ i = .jne a →
      t.pc.toNat = s.pc.toNat + 2 ∨ t.pc = (s.setPc (s.pc + 2)).reg a)

/-- Log entry 7, the model's own form of memory: two canonical memories that read alike at every address are equal lists. -/
def Obligations.CanonicalMemoriesAreDeterminedByTheirBytes : Prop :=
  ∀ m m' : Memory, m.wf = true → m'.wf = true → (∀ a, readByte m a = readByte m' a) → m = m'

/-! ## Reset and start -/

/-- 10_state.md R35: after `create()` all 16 cells and all memory bytes are zero and the output is empty. -/
def Obligations.ResetIsAllZero : Prop :=
  (∀ r, State.reset.reg r = 0) ∧ (∀ a, State.reset.byteAt a = 0) ∧ State.reset.out = []

/-- 70_reset_and_hazards.md R270: the start state holds the loader's image and `INITIAL_PC`; registers 0 to 14 are zero and the
output is empty. -/
def Obligations.StartHoldsTheImageAndTheInitialPc : Prop :=
  ∀ (image : Memory) (initialPc : Word),
    (∀ a, (State.start image initialPc).byteAt a = readByte image a) ∧
    (State.start image initialPc).pc.toNat = initialPc.toNat ∧
    (∀ r, r ≠ pcReg → (State.start image initialPc).reg r = 0) ∧ (State.start image initialPc).out = []

/-- Log entries 4, 5, the model's own interface: an instruction placed as a word of the opcode table is the one the very next step
fetches and runs, from every state with a canonical memory. -/
def Obligations.PlacedWordIsTheNextInstruction : Prop :=
  ∀ (s : State) (nbits w : Nat) (i : Instr), s.mem.wf = true → decodeTableWord nbits w = some i →
    step (s.withFetchWord nbits w) =
      exec i ((s.withFetchWord nbits w).setPc ((s.withFetchWord nbits w).pc + BitVec.ofNat 25 i.length))
end

