-- ==== Sys2Proof/Laws/State.lean ====
section
/-! SUPPORT. One lemma per field per update of the state, so that no proof unfolds a record update. -/

namespace Sys2Proof.Machine

/-! ## `setReg` -/

@[simp] theorem reg_setReg_same (s : State) (r : Reg) (v : RawCell) : (s.setReg r v).reg r = v := by
  simp [State.reg, State.setReg]

theorem reg_setReg (s : State) (r q : Reg) (v : RawCell) :
    (s.setReg r v).reg q = if q = r then v else s.reg q := by
  simp [State.reg, State.setReg, Vector.getElem_set, Fin.ext_iff, eq_comm]

@[simp] theorem reg_setReg_ne (s : State) {r q : Reg} (v : RawCell) (h : q ≠ r) :
    (s.setReg r v).reg q = s.reg q := by
  simp [reg_setReg, h]

@[simp] theorem mem_setReg (s : State) (r : Reg) (v : RawCell) : (s.setReg r v).mem = s.mem := rfl
@[simp] theorem out_setReg (s : State) (r : Reg) (v : RawCell) : (s.setReg r v).out = s.out := rfl
@[simp] theorem status_setReg (s : State) (r : Reg) (v : RawCell) : (s.setReg r v).status = s.status := rfl

@[simp] theorem setReg_setReg (s : State) (r : Reg) (v w : RawCell) : (s.setReg r v).setReg r w = s.setReg r w := by
  simp [State.setReg]

/-! ## `setPc`, `setVal` -/

@[simp] theorem pc_setPc (s : State) (v : RawCell) : (s.setPc v).pc = v := reg_setReg_same ..
theorem reg_setPc (s : State) (q : Reg) (v : RawCell) : (s.setPc v).reg q = if q = pcReg then v else s.reg q :=
  reg_setReg ..
@[simp] theorem mem_setPc (s : State) (v : RawCell) : (s.setPc v).mem = s.mem := rfl
@[simp] theorem out_setPc (s : State) (v : RawCell) : (s.setPc v).out = s.out := rfl
@[simp] theorem status_setPc (s : State) (v : RawCell) : (s.setPc v).status = s.status := rfl
@[simp] theorem setPc_setPc (s : State) (v w : RawCell) : (s.setPc v).setPc w = s.setPc w := setReg_setReg ..

theorem reg_setVal (s : State) (r q : Reg) (v : Word) :
    (s.setVal r v).reg q = if q = r then zext25 v else s.reg q := reg_setReg ..
@[simp] theorem mem_setVal (s : State) (r : Reg) (v : Word) : (s.setVal r v).mem = s.mem := rfl
@[simp] theorem out_setVal (s : State) (r : Reg) (v : Word) : (s.setVal r v).out = s.out := rfl
@[simp] theorem status_setVal (s : State) (r : Reg) (v : Word) : (s.setVal r v).status = s.status := rfl

/-! ## `withStatus` -/

@[simp] theorem reg_withStatus (s : State) (st : Status) (r : Reg) : (s.withStatus st).reg r = s.reg r := rfl
@[simp] theorem pc_withStatus (s : State) (st : Status) : (s.withStatus st).pc = s.pc := rfl
@[simp] theorem mem_withStatus (s : State) (st : Status) : (s.withStatus st).mem = s.mem := rfl
@[simp] theorem out_withStatus (s : State) (st : Status) : (s.withStatus st).out = s.out := rfl
@[simp] theorem status_withStatus (s : State) (st : Status) : (s.withStatus st).status = st := rfl

/-! ## `emit` -/

@[simp] theorem reg_emit (s : State) (bs : List Byte) (r : Reg) : (s.emit bs).reg r = s.reg r := rfl
@[simp] theorem mem_emit (s : State) (bs : List Byte) : (s.emit bs).mem = s.mem := rfl
@[simp] theorem out_emit (s : State) (bs : List Byte) : (s.emit bs).out = s.out ++ bs := rfl
@[simp] theorem status_emit (s : State) (bs : List Byte) : (s.emit bs).status = s.status := rfl

/-! ## Bytes of memory depend on the memory alone -/

theorem byteAt_eq (s : State) (a : Nat) : s.byteAt a = readByte s.mem a := rfl
@[simp] theorem byteAt_setReg (s : State) (r : Reg) (v : RawCell) (a : Nat) : (s.setReg r v).byteAt a = s.byteAt a := rfl
@[simp] theorem byteAt_setPc (s : State) (v : RawCell) (a : Nat) : (s.setPc v).byteAt a = s.byteAt a := rfl
@[simp] theorem byteAt_setVal (s : State) (r : Reg) (v : Word) (a : Nat) : (s.setVal r v).byteAt a = s.byteAt a := rfl
@[simp] theorem byteAt_withStatus (s : State) (st : Status) (a : Nat) : (s.withStatus st).byteAt a = s.byteAt a := rfl
@[simp] theorem byteAt_emit (s : State) (bs : List Byte) (a : Nat) : (s.emit bs).byteAt a = s.byteAt a := rfl

/-! ## Reset -/

@[simp] theorem reg_reset (r : Reg) : State.reset.reg r = 0 := by simp [State.reset, State.reg]
@[simp] theorem mem_reset : State.reset.mem = [] := rfl
@[simp] theorem out_reset : State.reset.out = [] := rfl
@[simp] theorem status_reset : State.reset.status = .cont := rfl

/-! ## The value of a cell -/

theorem toNat_val (s : State) (r : Reg) : (s.val r).toNat = (s.reg r).toNat % 0x1000000 := by
  simp [State.val]

@[simp] theorem toNat_zext25 (v : Word) : (zext25 v).toNat = v.toNat := by
  have := v.isLt
  simp [zext25, BitVec.toNat_setWidth]
  omega

theorem zext25_lt (v : Word) : (zext25 v).toNat < 0x1000000 := by
  rw [toNat_zext25]; exact v.isLt

end Sys2Proof.Machine
end

