-- ==== Sys2Proof/Laws/Alu.lean ====
section
/-! SUPPORT. The exact-result law of the ALU operations, operation by operation (45_alu.md R191, R192). -/

namespace Sys2Proof.Machine

theorem toNat_mask24_nat (n : Nat) : (mask24 (n : Int)).toNat = n % 0x1000000 := by
  simp [mask24]

theorem toInt_mask24 (e : Int) : ((mask24 e).toNat : Int) = e % 0x1000000 := by
  simp only [mask24, BitVec.toNat_ofInt]
  omega

theorem aluAdd_exact (a b : Nat) : (aluAdd a b).toNat = (a + b) % 0x1000000 := by
  rw [aluAdd, ← Int.natCast_add, toNat_mask24_nat]

theorem aluSub_exact (a b : Nat) : ((aluSub a b).toNat : Int) = ((a : Int) - b) % 0x1000000 := toInt_mask24 _

theorem aluMul_exact (a b : Nat) : (aluMul a b).toNat = (a * b) % 0x1000000 := by
  rw [aluMul, ← Int.natCast_mul, toNat_mask24_nat]

theorem aluDiv_exact (a b : Nat) : (aluDiv a b).toNat = (a / b) % 0x1000000 := toNat_mask24_nat _

theorem aluMod_exact (a b : Nat) : (aluMod a b).toNat = (a % b) % 0x1000000 := toNat_mask24_nat _

/-- The law of `SHL` for every amount: no bit of the product below bit 24 is left once the amount reaches 24 (R192). -/
theorem aluShl_exact (a b : Nat) : (aluShl a b).toNat = (a * 2 ^ b) % 0x1000000 := by
  unfold aluShl
  split
  · exact toNat_mask24_nat _
  · obtain ⟨k, rfl⟩ := Nat.exists_eq_add_of_le (show 24 ≤ b by omega)
    rw [Nat.pow_add, show a * (2 ^ 24 * 2 ^ k) = 0x1000000 * (a * 2 ^ k) by ring]
    simp

/-- The law of `SHR` for every amount and every stored operand: nothing of 25 bits is left once the amount reaches 25
(R192). -/
theorem aluShr_exact (a b : Nat) (ha : a < 2 ^ 25) : (aluShr a b).toNat = (a / 2 ^ b) % 0x1000000 := by
  unfold aluShr
  split
  · exact toNat_mask24_nat _
  · have : 2 ^ 25 ≤ 2 ^ b := Nat.pow_le_pow_right (by omega) (by omega)
    rw [Nat.div_eq_of_lt (by omega)]
    rfl

theorem aluInc_exact (a : Nat) : (aluInc a).toNat = (a + 1) % 0x1000000 := toNat_mask24_nat _

theorem aluDec_exact (a : Nat) : ((aluDec a).toNat : Int) = ((a : Int) - 1) % 0x1000000 := toInt_mask24 _

theorem aluNot_exact (a : RawCell) : aluNot a = ~~~ a.setWidth 24 := by
  rw [aluNot, show (0xFFFFFF : Word) = BitVec.allOnes 24 from rfl, BitVec.allOnes_sub_eq_not]

end Sys2Proof.Machine
end

