-- ==== Sys2Proof/Laws/Decode.lean ====
section
/-! SUPPORT. The fields of an encoded byte read back. -/

namespace Sys2Proof

@[simp] theorem fieldA_regPair (a b : Reg) : fieldA (regPair a b) = a := by
  revert a b; decide

@[simp] theorem fieldB_regPair (a b : Reg) : fieldB (regPair a b) = b := by
  revert a b; decide

@[simp] theorem fieldA_regHigh (a : Reg) : fieldA (regHigh a) = a := by
  revert a; decide

/-- The three immediate bytes of `LDI`, read low byte first, are the immediate (30_encoding.md R84). -/
@[simp] theorem immediate_bytes (imm : Word) :
    immediate (imm.extractLsb' 0 8) (imm.extractLsb' 8 8) (imm.extractLsb' 16 8) = imm := by
  unfold immediate
  ext i hi
  simp only [BitVec.getElem_append, BitVec.getElem_extractLsb']
  split
  · simp [BitVec.getLsbD_eq_getElem hi]
  · split
    · rw [show 8 + (i - 8) = i by omega, BitVec.getLsbD_eq_getElem hi]
    · rw [show 16 + (i - 8 - 8) = i by omega, BitVec.getLsbD_eq_getElem hi]

theorem highNibble_ldi (d : Reg) : highNibble (0xF#4 ++ BitVec.ofFin (w := 4) d) = 0xF#4 := by
  revert d; decide

theorem lowNibble_ldi (d : Reg) : (lowNibble (0xF#4 ++ BitVec.ofFin (w := 4) d)).toFin = d := by
  revert d; decide

end Sys2Proof
end

