-- ==== Sys2Proof/Laws/Memory.lean ====
section
/-! SUPPORT. Once for each memory operation, all it can do: reads after writes, the canonical form, and the bounds. -/

namespace Sys2Proof.Machine

@[simp] theorem readByte_nil (a : Nat) : readByte [] a = unlistedByte := rfl

theorem readByte_cons (k : Nat) (c : Byte) (m : Memory) (a : Nat) :
    readByte ((k, c) :: m) a = if a = k then c else readByte m a := rfl

/-! ## The canonical form -/

theorem wfFrom_cons {lo k : Nat} {c : Byte} {m : Memory} :
    Memory.wfFrom lo ((k, c) :: m) = true ↔
      lo ≤ k ∧ k < memSize ∧ c ≠ unlistedByte ∧ Memory.wfFrom (k + 1) m = true := by
  simp [Memory.wfFrom, and_assoc]

theorem wfFrom_mono {lo lo' : Nat} {m : Memory} (h : Memory.wfFrom lo m = true) (hl : lo' ≤ lo) :
    Memory.wfFrom lo' m = true := by
  cases m with
  | nil => rfl
  | cons e m =>
    obtain ⟨k, c⟩ := e
    rw [wfFrom_cons] at h ⊢
    exact ⟨by omega, h.2⟩

/-- Below the first address of a canonical list nothing is listed. -/
theorem readByte_of_lt {lo a : Nat} {m : Memory} (h : Memory.wfFrom lo m = true) (ha : a < lo) :
    readByte m a = unlistedByte := by
  induction m generalizing lo with
  | nil => rfl
  | cons e m ih =>
    obtain ⟨k, c⟩ := e
    rw [wfFrom_cons] at h
    rw [readByte_cons, if_neg (by omega)]
    exact ih h.2.2.2 (by omega)

theorem wfFrom_writeByte {lo a : Nat} {m : Memory} (b : Byte) (h : Memory.wfFrom lo m = true) (hl : lo ≤ a)
    (ha : a < memSize) : Memory.wfFrom lo (writeByte m a b) = true := by
  induction m generalizing lo with
  | nil =>
    by_cases hb : b = unlistedByte
    · simp [writeByte, hb, Memory.wfFrom]
    · simp [writeByte, hb, hl, ha, Memory.wfFrom]
  | cons e m ih =>
    obtain ⟨k, c⟩ := e
    have h' := wfFrom_cons.1 h
    rw [writeByte]
    split
    · split
      · exact h
      · exact wfFrom_cons.2 ⟨hl, ha, by assumption, wfFrom_cons.2 ⟨by omega, h'.2⟩⟩
    · split
      · split
        · exact wfFrom_mono h'.2.2.2 (by omega)
        · subst a
          exact wfFrom_cons.2 ⟨hl, ha, by assumption, h'.2.2.2⟩
      · exact wfFrom_cons.2 ⟨h'.1, h'.2.1, h'.2.2.1, ih h'.2.2.2 (by omega)⟩

/-- A write at a valid address keeps the canonical form. -/
theorem wf_writeByte {m : Memory} {a : Nat} (b : Byte) (h : m.wf = true) (ha : a < memSize) :
    (writeByte m a b).wf = true := wfFrom_writeByte b h (by omega) ha

/-- The loader's copy keeps the canonical form. -/
theorem wf_placeBytes {m : Memory} {a : Nat} (bs : List Byte) (h : m.wf = true) (ha : a + bs.length ≤ memSize) :
    (placeBytes m a bs).wf = true := by
  induction bs generalizing m a with
  | nil => exact h
  | cons b bs ih =>
    simp only [List.length_cons] at ha
    exact ih (wf_writeByte b h (by omega)) (by omega)

/-! ## Reads after writes -/

/-- A write leaves every other byte as it was, in any list. -/
theorem readByte_writeByte_ne {m : Memory} {a q : Nat} (b : Byte) (h : q ≠ a) :
    readByte (writeByte m a b) q = readByte m q := by
  induction m with
  | nil =>
    by_cases hb : b = unlistedByte <;> simp [writeByte, hb, readByte_cons, h]
  | cons e m ih =>
    obtain ⟨k, c⟩ := e
    rw [writeByte]
    split
    · split <;> simp [readByte_cons, h]
    · split
      · subst a
        split <;> simp [readByte_cons, h]
      · simp [readByte_cons, ih]

/-- A byte that differs from the unlisted one reads back from any list. -/
theorem readByte_writeByte_self_of_ne {m : Memory} {a : Nat} {b : Byte} (hb : b ≠ unlistedByte) :
    readByte (writeByte m a b) a = b := by
  induction m with
  | nil => simp [writeByte, hb, readByte_cons]
  | cons e m ih =>
    obtain ⟨k, c⟩ := e
    rw [writeByte]
    split
    · simp [readByte_cons]
    · split
      · simp [readByte_cons]
      · rename_i h; simp [readByte_cons, h, ih]

theorem readByte_writeByte_self_from {lo a : Nat} {m : Memory} (b : Byte) (h : Memory.wfFrom lo m = true) :
    readByte (writeByte m a b) a = b := by
  by_cases hb : b = unlistedByte
  · subst hb
    induction m generalizing lo with
    | nil => simp [writeByte]
    | cons e m ih =>
      obtain ⟨k, c⟩ := e
      have h' := wfFrom_cons.1 h
      rw [writeByte]
      split
      · rename_i hk
        rw [if_pos rfl, readByte_cons, if_neg (by omega)]
        exact readByte_of_lt h'.2.2.2 (by omega)
      · split
        · rename_i hk
          rw [if_pos rfl]
          exact readByte_of_lt h'.2.2.2 (by omega)
        · rename_i hk
          rw [readByte_cons, if_neg hk]
          exact ih h'.2.2.2
  · exact readByte_writeByte_self_of_ne hb

/-- In a canonical memory a byte reads back as it was written (20_memory.md R60). -/
theorem readByte_writeByte {m : Memory} {a q : Nat} (b : Byte) (h : m.wf = true) :
    readByte (writeByte m a b) q = if q = a then b else readByte m q := by
  split
  · rename_i hq; subst hq; exact readByte_writeByte_self_from b h
  · rename_i hq; exact readByte_writeByte_ne b hq

/-- What the loader placed reads back, and nothing else changed. -/
theorem readByte_placeBytes {m : Memory} {a q : Nat} (bs : List Byte) (h : m.wf = true) (ha : a + bs.length ≤ memSize) :
    readByte (placeBytes m a bs) q = if a ≤ q then bs.getD (q - a) (readByte m q) else readByte m q := by
  induction bs generalizing m a with
  | nil => simp [placeBytes]
  | cons b bs ih =>
    simp only [List.length_cons] at ha
    rw [placeBytes, ih (wf_writeByte b h (by omega)) (by omega), readByte_writeByte b h]
    rcases Nat.lt_trichotomy q a with hq | hq | hq
    · simp [show ¬ a + 1 ≤ q by omega, show ¬ a ≤ q by omega, show q ≠ a by omega]
    · subst hq; simp
    · obtain ⟨j, hj⟩ : ∃ j, q - a = j + 1 := ⟨q - a - 1, by omega⟩
      simp [show a + 1 ≤ q by omega, show a ≤ q by omega, show q ≠ a by omega, hj, show q - (a + 1) = j by omega]

/-! ## The bounds check -/

/-- `MemRead` answers the byte exactly at a valid address (20_memory.md R55). -/
theorem memRead_eq_some {s : State} {a : Nat} {b : Byte} : s.memRead a = some b ↔ a < memSize ∧ s.byteAt a = b := by
  simp [State.memRead]

theorem memRead_eq_none {s : State} {a : Nat} : s.memRead a = none ↔ memSize ≤ a := by
  simp [State.memRead]

/-- `MemWrite` changes one cell of memory, exactly at a valid address (20_memory.md R55). -/
theorem memWrite_eq_some {s t : State} {a : Nat} {b : Byte} :
    s.memWrite a b = some t ↔ a < memSize ∧ t = { s with mem := writeByte s.mem a b } := by
  simp [State.memWrite, eq_comm]

theorem memWrite_eq_none {s : State} {a : Nat} {b : Byte} : s.memWrite a b = none ↔ memSize ≤ a := by
  simp [State.memWrite]

/-! ## The three-byte load -/

/-- All `loadThree` can do: three valid addresses and their bytes, the first the most significant, or an address that is
not valid. -/
theorem loadThree_eq (s : State) (a : Nat) :
    s.loadThree a =
      if a + 2 < memSize then some (s.byteAt a ++ s.byteAt (a + 1) ++ s.byteAt (a + 2)) else none := by
  unfold State.loadThree State.memRead
  by_cases h : a + 2 < memSize
  · simp [h, show a < memSize by omega, show a + 1 < memSize by omega]
  · by_cases h1 : a + 1 < memSize
    · simp [h, h1, show a < memSize by omega]
    · simp [h, h1]

theorem loadThree_toNat (m0 m1 m2 : Byte) :
    (m0 ++ m1 ++ m2 : BitVec 24).toNat = m0.toNat * 65536 + m1.toNat * 256 + m2.toNat := by
  have h1 := m1.isLt
  have h2 := m2.isLt
  simp only [BitVec.toNat_append]
  rw [← Nat.shiftLeft_add_eq_or_of_lt h2, ← Nat.shiftLeft_add_eq_or_of_lt h1, Nat.shiftLeft_eq, Nat.shiftLeft_eq]
  omega

/-! ## The byte-by-byte store -/

/-- All `storeBytes` can do: it writes the bytes whose addresses are valid, in order, changes only memory, and answers
`.error` exactly when an address is not valid. -/
theorem storeBytes_spec (s : State) (a : Nat) (bs : List Byte) (hne : ∀ b ∈ bs, b ≠ unlistedByte) :
    ∃ t : State, storeBytes s a bs = (if a + bs.length ≤ memSize ∨ bs = [] then .ok t else .error t) ∧
      (∀ r, t.reg r = s.reg r) ∧ t.out = s.out ∧ t.status = s.status ∧
      ∀ q, t.byteAt q = if a ≤ q ∧ q < memSize then bs.getD (q - a) (s.byteAt q) else s.byteAt q := by
  induction bs generalizing s a with
  | nil => exact ⟨s, by simp [storeBytes], fun _ => rfl, rfl, rfl, by simp⟩
  | cons b bs ih =>
    have hb : b ≠ unlistedByte := hne b (by simp)
    by_cases ha : a < memSize
    · obtain ⟨t, ht, hx, ho, hs, hm⟩ := ih { s with mem := writeByte s.mem a b } (a + 1) (fun c hc => hne c (by simp [hc]))
      refine ⟨t, ?_, hx, ho, hs, ?_⟩
      · simp only [storeBytes, State.memWrite, if_pos ha, ht, List.length_cons]
        by_cases hl : a + (bs.length + 1) ≤ memSize
        · simp [hl, show a + 1 + bs.length ≤ memSize by omega]
        · have : bs ≠ [] := by rintro rfl; simp at hl; omega
          simp [hl, this, show ¬ a + 1 + bs.length ≤ memSize by omega]
      · intro q
        rw [hm q]
        simp only [byteAt_eq]
        rcases Nat.lt_trichotomy q a with hq | hq | hq
        · simp [show ¬ a + 1 ≤ q by omega, show ¬ a ≤ q by omega, readByte_writeByte_ne b (show q ≠ a by omega)]
        · subst hq; simp [ha, readByte_writeByte_self_of_ne hb]
        · obtain ⟨j, hj⟩ : ∃ j, q - a = j + 1 := ⟨q - a - 1, by omega⟩
          simp [show a + 1 ≤ q by omega, show a ≤ q by omega, hj, show q - (a + 1) = j by omega,
            readByte_writeByte_ne b (show q ≠ a by omega)]
    · refine ⟨s, ?_, fun _ => rfl, rfl, rfl, ?_⟩
      · simp [storeBytes, State.memWrite, ha, show ¬ a + (bs.length + 1) ≤ memSize by omega]
      · intro q; simp [show ¬ (a ≤ q ∧ q < memSize) by omega]

/-- What the byte-by-byte store leaves, whether it goes on or stops, is still canonical. -/
theorem wf_storeBytes (s : State) (a : Nat) (bs : List Byte) (h : s.mem.wf = true) :
    ∀ t, storeBytes s a bs = .ok t ∨ storeBytes s a bs = .error t → t.mem.wf = true := by
  induction bs generalizing s a with
  | nil => simp [storeBytes, h]
  | cons b bs ih =>
    intro t ht
    by_cases ha : a < memSize
    · simp only [storeBytes, State.memWrite, if_pos ha] at ht
      exact ih { s with mem := writeByte s.mem a b } (a + 1) (wf_writeByte b h ha) t ht
    · simp [storeBytes, State.memWrite, ha] at ht
      exact ht ▸ h

/-! ## The print scan -/

/-- A scan that meets a terminator after `k` other bytes emits exactly those bytes. -/
theorem scanString_found (m : Memory) (n p k : Nat) (hk : k < n) (hz : readByte m (p + k) = terminator)
    (hnz : ∀ j < k, readByte m (p + j) ≠ terminator) :
    scanString m n p = ((List.range k).map fun j => readByte m (p + j), true) := by
  induction n generalizing p k with
  | zero => omega
  | succ n ih =>
    rw [scanString]
    cases k with
    | zero => simp [show readByte m p = terminator by simpa using hz]
    | succ k =>
      have h0 : readByte m p ≠ terminator := by simpa using hnz 0 (by omega)
      have := ih (p + 1) k (by omega) (by rw [← hz]; congr 1; omega)
        (fun j hj => by have := hnz (j + 1) (by omega); rwa [show p + 1 + j = p + (j + 1) by omega])
      simp only [if_neg h0, this, List.range_succ_eq_map, List.map_cons, List.map_map]
      simp [Function.comp_def, show ∀ j, p + 1 + j = p + (j + 1) by omega]

/-- A scan that meets no terminator emits all it has scanned and says so. -/
theorem scanString_none (m : Memory) (n p : Nat) (hnz : ∀ j < n, readByte m (p + j) ≠ terminator) :
    scanString m n p = ((List.range n).map fun j => readByte m (p + j), false) := by
  induction n generalizing p with
  | zero => simp [scanString]
  | succ n ih =>
    have h0 : readByte m p ≠ terminator := by simpa using hnz 0 (by omega)
    have := ih (p + 1)
      (fun j hj => by have := hnz (j + 1) (by omega); rwa [show p + 1 + j = p + (j + 1) by omega])
    rw [scanString]
    simp only [if_neg h0, this, List.range_succ_eq_map, List.map_cons, List.map_map]
    simp [Function.comp_def, show ∀ j, p + 1 + j = p + (j + 1) by omega]

/-- No scan emits a terminator. -/
theorem terminator_notMem_scanString (m : Memory) (n p : Nat) : terminator ∉ (scanString m n p).1 := by
  induction n generalizing p with
  | zero => simp [scanString]
  | succ n ih =>
    rw [scanString]
    split
    · simp
    · rename_i h
      simp only [List.mem_cons, not_or]
      exact ⟨fun h' => h h'.symm, ih (p + 1)⟩

end Sys2Proof.Machine
end

