-- ==== Sys2Proof/Laws/Fetch.lean ====
section
/-! SUPPORT. Once for the fetch, all it can do; and how the three ends of a step are told apart. -/

namespace Sys2Proof.Machine

/-! ## How a step ends -/

@[simp] theorem returnContinue_eq_next {s t : State} : returnContinue s = .next t ↔ t = s.withStatus .cont := by
  simp [returnContinue, eq_comm]
@[simp] theorem returnHalt_eq_next {s t : State} : returnHalt s = .next t ↔ t = s.withStatus .halt := by
  simp [returnHalt, eq_comm]
@[simp] theorem raiseFault_eq_fault {c : State → Fault} {s : State} {f : Fault} :
    raiseFault c s = .fault f ↔ f = c (s.withStatus .fault) := by simp [raiseFault, eq_comm]
@[simp] theorem returnContinue_ne_fault {s : State} {f : Fault} : returnContinue s ≠ .fault f := by
  simp [returnContinue]
@[simp] theorem returnHalt_ne_fault {s : State} {f : Fault} : returnHalt s ≠ .fault f := by simp [returnHalt]
@[simp] theorem raiseFault_ne_next {c : State → Fault} {s t : State} : raiseFault c s ≠ .next t := by simp [raiseFault]
@[simp] theorem returnContinue_ne_refused {s : State} {r : Refusal} : returnContinue s ≠ .refused r := by
  simp [returnContinue]
@[simp] theorem returnHalt_ne_refused {s : State} {r : Refusal} : returnHalt s ≠ .refused r := by simp [returnHalt]
@[simp] theorem raiseFault_ne_refused {c : State → Fault} {s : State} {r : Refusal} : raiseFault c s ≠ .refused r := by
  simp [raiseFault]

/-! ## The fetch -/

theorem memSize_eq : memSize = 0x1000000 := rfl

/-- `fetchByte` inside memory: the byte at `pc`, and `pc` moved by one (40_step_and_nop.md R111). -/
theorem fetchByte_ok {s : State} (h : s.pc.toNat < memSize) :
    fetchByte s = .ok (s.byteAt s.pc.toNat, s.setPc (s.pc + 1)) := by
  simp [fetchByte, State.memRead, h]

/-- `fetchByte` outside memory consumes nothing and changes nothing (40_step_and_nop.md R111). -/
theorem fetchByte_error {s : State} (h : memSize ≤ s.pc.toNat) : fetchByte s = .error s := by
  simp [fetchByte, memRead_eq_none.2 h]

theorem fetchByte_setPc_ok {s : State} {v : RawCell} (h : v.toNat < memSize) :
    fetchByte (s.setPc v) = .ok (s.byteAt v.toNat, s.setPc (v + 1)) := by
  rw [fetchByte_ok (by simpa using h)]; simp

theorem fetchByte_setPc_error {s : State} {v : RawCell} (h : memSize ≤ v.toNat) :
    fetchByte (s.setPc v) = .error (s.setPc v) := fetchByte_error (by simpa using h)

/-- The pc a few bytes on does not wrap. -/
theorem toNat_pc_add {v : RawCell} {k : Nat} (h : v.toNat + k ≤ memSize) :
    (v + BitVec.ofNat 25 k).toNat = v.toNat + k := by
  have := memSize_eq
  simp only [BitVec.toNat_add, BitVec.toNat_ofNat]
  omega

theorem toNat_pc_succ {v : RawCell} (h : v.toNat < memSize) : (v + 1).toNat = v.toNat + 1 := toNat_pc_add (k := 1) h

/-- The length in bytes the first byte tells (30_encoding.md R80). -/
def formLength (b0 : Byte) : Nat := if isLongForm b0 then 4 else 2

/-- A fetch that finds all its bytes inside memory answers them and the state with `pc` past them. -/
theorem fetch_ok (s : State) (h : s.pc.toNat + formLength (s.byteAt s.pc.toNat) ≤ memSize) :
    ∃ f, fetch s = .ok (f, s.setPc (s.pc + BitVec.ofNat 25 (formLength (s.byteAt s.pc.toNat)))) ∧
      f.b0 = s.byteAt s.pc.toNat ∧ f.b1 = s.byteAt (s.pc.toNat + 1) ∧
      (isLongForm (s.byteAt s.pc.toNat) = true →
        f.b2 = s.byteAt (s.pc.toNat + 2) ∧ f.b3 = s.byteAt (s.pc.toNat + 3)) ∧
      (isLongForm (s.byteAt s.pc.toNat) = false → f.b2 = 0 ∧ f.b3 = 0) := by
  have e2 : s.pc.toNat + 2 ≤ memSize := by unfold formLength at h; split at h <;> omega
  have p1 : (s.pc + 1).toNat = s.pc.toNat + 1 := toNat_pc_succ (by omega)
  have p2 : (s.pc + 1 + 1).toNat = s.pc.toNat + 2 := by rw [toNat_pc_succ (by omega), p1]
  cases hl : isLongForm (s.byteAt s.pc.toNat) with
  | true =>
    have e4 : s.pc.toNat + 4 ≤ memSize := by simpa [formLength, hl] using h
    have p3 : (s.pc + 1 + 1 + 1).toNat = s.pc.toNat + 3 := by rw [toNat_pc_succ (by omega), p2]
    refine ⟨⟨s.byteAt s.pc.toNat, s.byteAt (s.pc.toNat + 1), s.byteAt (s.pc.toNat + 2), s.byteAt (s.pc.toNat + 3)⟩, ?_, rfl,
      rfl, fun _ => ⟨rfl, rfl⟩, nofun⟩
    rw [fetch, fetchByte_ok (by omega)]
    simp only
    rw [fetchByte_setPc_ok (by omega)]
    simp only [hl, if_true]
    rw [fetchByte_setPc_ok (by omega)]
    simp only
    rw [fetchByte_setPc_ok (by omega), p1, p2, p3]
    simp [formLength, hl, BitVec.add_assoc]
  | false =>
    refine ⟨⟨s.byteAt s.pc.toNat, s.byteAt (s.pc.toNat + 1), 0, 0⟩, ?_, rfl, rfl, nofun, fun _ => ⟨rfl, rfl⟩⟩
    rw [fetch, fetchByte_ok (by omega)]
    simp only
    rw [fetchByte_setPc_ok (by omega), p1]
    simp [formLength, hl, BitVec.add_assoc]

/-- A fetch whose bytes run past the end of memory stops with `pc` at the first address outside it, and nothing else
changed (40_step_and_nop.md R116). -/
theorem fetch_error (s : State) (h : memSize < s.pc.toNat + formLength (s.byteAt s.pc.toNat)) :
    fetch s = .error (if memSize ≤ s.pc.toNat then s else s.setPc 0x1000000) := by
  have hm := memSize_eq
  have top : ∀ {v : RawCell}, v.toNat = 0x1000000 → v = 0x1000000 := fun hv => BitVec.eq_of_toNat_eq (by rw [hv]; rfl)
  by_cases e0 : memSize ≤ s.pc.toNat
  · rw [fetch, fetchByte_error e0, if_pos e0]
  · have p1 : (s.pc + 1).toNat = s.pc.toNat + 1 := toNat_pc_succ (by omega)
    rw [fetch, fetchByte_ok (by omega), if_neg e0]
    simp only
    by_cases e2 : s.pc.toNat + 1 < memSize
    · have p2 : (s.pc + 1 + 1).toNat = s.pc.toNat + 2 := by rw [toNat_pc_succ (by omega), p1]
      have hl : isLongForm (s.byteAt s.pc.toNat) = true := by
        cases hl : isLongForm (s.byteAt s.pc.toNat)
        · simp only [formLength, hl] at h
          simp at h
          omega
        · rfl
      rw [fetchByte_setPc_ok (by omega)]
      simp only [hl, if_true]
      by_cases e3 : s.pc.toNat + 2 < memSize
      · have p3 : (s.pc + 1 + 1 + 1).toNat = s.pc.toNat + 3 := by rw [toNat_pc_succ (by omega), p2]
        have e4 : memSize < s.pc.toNat + 4 := by simpa [formLength, hl] using h
        rw [fetchByte_setPc_ok (by omega)]
        simp only
        rw [fetchByte_setPc_error (by omega), top (show (s.pc + 1 + 1 + 1).toNat = 0x1000000 by omega)]
      · rw [fetchByte_setPc_error (by omega), top (show (s.pc + 1 + 1).toNat = 0x1000000 by omega)]
    · rw [fetchByte_setPc_error (by omega), top (show (s.pc + 1).toNat = 0x1000000 by omega)]

/-- All a fetch can do: it answers the bytes at `pc` and moves `pc` past them, or stops at the end of memory having moved
nothing but `pc`. -/
theorem fetch_cases (s : State) :
    (∃ f, fetch s = .ok (f, s.setPc (s.pc + BitVec.ofNat 25 (formLength (s.byteAt s.pc.toNat)))) ∧
        f.b0 = s.byteAt s.pc.toNat ∧ s.pc.toNat + formLength (s.byteAt s.pc.toNat) ≤ memSize) ∨
      fetch s = .error (if memSize ≤ s.pc.toNat then s else s.setPc 0x1000000) := by
  by_cases h : s.pc.toNat + formLength (s.byteAt s.pc.toNat) ≤ memSize
  · obtain ⟨f, hf, h0, -⟩ := fetch_ok s h
    exact .inl ⟨f, hf, h0, h⟩
  · exact .inr (fetch_error s (by omega))

/-! ## The step -/

/-- All a step can do. -/
theorem step_cases (s : State) :
    (s.status = .halt ∧ step s = .refused .stepAfterHalt) ∨
      (s.status = .fault ∧ step s = .refused .stepAfterFault) ∨
      (s.status = .cont ∧ ∃ left, fetch s = .error left ∧ step s = .fault (.fetchOutOfRange (left.withStatus .fault))) ∨
      (s.status = .cont ∧ ∃ f s', fetch s = .ok (f, s') ∧ step s = exec f.instr s') := by
  unfold step
  cases hs : s.status
  · cases hf : fetch s with
    | error left => simp [raiseFault]
    | ok p => obtain ⟨f, s'⟩ := p; simp
  · simp
  · simp

end Sys2Proof.Machine
end

