-- ==== Sys2Proof/Laws/PerInstr.lean ====
section
/-! SUPPORT. The families of statements about every instruction, one lemma per constructor of `Instr`. -/

namespace Sys2Proof.Laws

/-- The encoder writes as many bytes as the instruction is long (30_encoding.md R80). -/
def EncodedLength.Statement (i : Instr) : Prop := (encode i).length = i.length

/-- The encoder writes a canonical encoding: the right length and zero in every ignored bit (30_encoding.md R92; for
the reserved rows log entry 9). -/
def CanonicalEncoding.Statement (i : Instr) : Prop := canonical (encode i) = true

/-- Bytes of the right length under a row that ignores no bit of `b1` and none that `b0` sets are canonical. -/
theorem canonical_noIgnored {b0 : Byte} (b1 : Byte) (rest : List Byte)
    (h : (match rowOf b0 with
      | some r => rest.length + 2 == r.length && b0 &&& r.ignored0 == 0 && r.ignored1 == 0
      | none => false) = true) : canonical (b0 :: b1 :: rest) = true := by
  unfold canonical
  split at h
  · rename_i r hr
    simp only [Bool.and_eq_true, beq_iff_eq] at h
    simp [hr, h.1.1, h.1.2, h.2]
  · simp at h

theorem EncodedLength.nop : EncodedLength.Statement (.nop) := rfl
theorem EncodedLength.ld (a b : Reg) : EncodedLength.Statement (.ld a b) := rfl
theorem EncodedLength.st (a b : Reg) : EncodedLength.Statement (.st a b) := rfl
theorem EncodedLength.mov (a b : Reg) : EncodedLength.Statement (.mov a b) := rfl
theorem EncodedLength.rsv1 : EncodedLength.Statement (.rsv1) := rfl
theorem EncodedLength.cmp (a b : Reg) : EncodedLength.Statement (.cmp a b) := rfl
theorem EncodedLength.jmp (a : Reg) : EncodedLength.Statement (.jmp a) := rfl
theorem EncodedLength.jeq (a : Reg) : EncodedLength.Statement (.jeq a) := rfl
theorem EncodedLength.jgt (a : Reg) : EncodedLength.Statement (.jgt a) := rfl
theorem EncodedLength.jf3 (a : Reg) : EncodedLength.Statement (.jf3 a) := rfl
theorem EncodedLength.jlt (a : Reg) : EncodedLength.Statement (.jlt a) := rfl
theorem EncodedLength.jf5 (a : Reg) : EncodedLength.Statement (.jf5 a) := rfl
theorem EncodedLength.rsv3_6 : EncodedLength.Statement (.rsv3_6) := rfl
theorem EncodedLength.rsv3_7 : EncodedLength.Statement (.rsv3_7) := rfl
theorem EncodedLength.rsv3_8 : EncodedLength.Statement (.rsv3_8) := rfl
theorem EncodedLength.rsv3_9 : EncodedLength.Statement (.rsv3_9) := rfl
theorem EncodedLength.rsv3_a : EncodedLength.Statement (.rsv3_a) := rfl
theorem EncodedLength.rsv3_b : EncodedLength.Statement (.rsv3_b) := rfl
theorem EncodedLength.rsv3_c : EncodedLength.Statement (.rsv3_c) := rfl
theorem EncodedLength.rsv3_d : EncodedLength.Statement (.rsv3_d) := rfl
theorem EncodedLength.rsv3_e : EncodedLength.Statement (.rsv3_e) := rfl
theorem EncodedLength.jne (a : Reg) : EncodedLength.Statement (.jne a) := rfl
theorem EncodedLength.add (a b : Reg) : EncodedLength.Statement (.add a b) := rfl
theorem EncodedLength.sub (a b : Reg) : EncodedLength.Statement (.sub a b) := rfl
theorem EncodedLength.mul (a b : Reg) : EncodedLength.Statement (.mul a b) := rfl
theorem EncodedLength.div (a b : Reg) : EncodedLength.Statement (.div a b) := rfl
theorem EncodedLength.mod (a b : Reg) : EncodedLength.Statement (.mod a b) := rfl
theorem EncodedLength.shl (a b : Reg) : EncodedLength.Statement (.shl a b) := rfl
theorem EncodedLength.shr (a b : Reg) : EncodedLength.Statement (.shr a b) := rfl
theorem EncodedLength.or (a b : Reg) : EncodedLength.Statement (.or a b) := rfl
theorem EncodedLength.and (a b : Reg) : EncodedLength.Statement (.and a b) := rfl
theorem EncodedLength.xor (a b : Reg) : EncodedLength.Statement (.xor a b) := rfl
theorem EncodedLength.not (a : Reg) : EncodedLength.Statement (.not a) := rfl
theorem EncodedLength.inc (a : Reg) : EncodedLength.Statement (.inc a) := rfl
theorem EncodedLength.dec (a : Reg) : EncodedLength.Statement (.dec a) := rfl
theorem EncodedLength.rsv4_d : EncodedLength.Statement (.rsv4_d) := rfl
theorem EncodedLength.rsv4_e : EncodedLength.Statement (.rsv4_e) := rfl
theorem EncodedLength.rsv4_f : EncodedLength.Statement (.rsv4_f) := rfl
theorem EncodedLength.rsv5 : EncodedLength.Statement (.rsv5) := rfl
theorem EncodedLength.rsv6 : EncodedLength.Statement (.rsv6) := rfl
theorem EncodedLength.rsv7 : EncodedLength.Statement (.rsv7) := rfl
theorem EncodedLength.rsv8 : EncodedLength.Statement (.rsv8) := rfl
theorem EncodedLength.rsv9 : EncodedLength.Statement (.rsv9) := rfl
theorem EncodedLength.rsva : EncodedLength.Statement (.rsva) := rfl
theorem EncodedLength.rsvb : EncodedLength.Statement (.rsvb) := rfl
theorem EncodedLength.rsvc : EncodedLength.Statement (.rsvc) := rfl
theorem EncodedLength.rsvd : EncodedLength.Statement (.rsvd) := rfl
theorem EncodedLength.hlt : EncodedLength.Statement (.hlt) := rfl
theorem EncodedLength.rsve_1 : EncodedLength.Statement (.rsve_1) := rfl
theorem EncodedLength.rsve_2 : EncodedLength.Statement (.rsve_2) := rfl
theorem EncodedLength.rsve_3 : EncodedLength.Statement (.rsve_3) := rfl
theorem EncodedLength.rsve_4 : EncodedLength.Statement (.rsve_4) := rfl
theorem EncodedLength.rsve_5 : EncodedLength.Statement (.rsve_5) := rfl
theorem EncodedLength.rsve_6 : EncodedLength.Statement (.rsve_6) := rfl
theorem EncodedLength.rsve_7 : EncodedLength.Statement (.rsve_7) := rfl
theorem EncodedLength.rsve_8 : EncodedLength.Statement (.rsve_8) := rfl
theorem EncodedLength.rsve_9 : EncodedLength.Statement (.rsve_9) := rfl
theorem EncodedLength.rsve_a : EncodedLength.Statement (.rsve_a) := rfl
theorem EncodedLength.rsve_b : EncodedLength.Statement (.rsve_b) := rfl
theorem EncodedLength.rsve_c : EncodedLength.Statement (.rsve_c) := rfl
theorem EncodedLength.rsve_d : EncodedLength.Statement (.rsve_d) := rfl
theorem EncodedLength.rsve_e : EncodedLength.Statement (.rsve_e) := rfl
theorem EncodedLength.prt (a : Reg) : EncodedLength.Statement (.prt a) := rfl
theorem EncodedLength.ldi (d : Reg) (imm : Word) : EncodedLength.Statement (.ldi d imm) := rfl

theorem CanonicalEncoding.nop : CanonicalEncoding.Statement (.nop) := rfl
theorem CanonicalEncoding.ld (a b : Reg) : CanonicalEncoding.Statement (.ld a b) := canonical_noIgnored _ [] (by decide)
theorem CanonicalEncoding.st (a b : Reg) : CanonicalEncoding.Statement (.st a b) := canonical_noIgnored _ [] (by decide)
theorem CanonicalEncoding.mov (a b : Reg) : CanonicalEncoding.Statement (.mov a b) := canonical_noIgnored _ [] (by decide)
theorem CanonicalEncoding.rsv1 : CanonicalEncoding.Statement (.rsv1) := rfl
theorem CanonicalEncoding.cmp (a b : Reg) : CanonicalEncoding.Statement (.cmp a b) := canonical_noIgnored _ [] (by decide)
theorem CanonicalEncoding.jmp (a : Reg) : CanonicalEncoding.Statement (.jmp a) := by revert a; unfold CanonicalEncoding.Statement; decide
theorem CanonicalEncoding.jeq (a : Reg) : CanonicalEncoding.Statement (.jeq a) := by revert a; unfold CanonicalEncoding.Statement; decide
theorem CanonicalEncoding.jgt (a : Reg) : CanonicalEncoding.Statement (.jgt a) := by revert a; unfold CanonicalEncoding.Statement; decide
theorem CanonicalEncoding.jf3 (a : Reg) : CanonicalEncoding.Statement (.jf3 a) := by revert a; unfold CanonicalEncoding.Statement; decide
theorem CanonicalEncoding.jlt (a : Reg) : CanonicalEncoding.Statement (.jlt a) := by revert a; unfold CanonicalEncoding.Statement; decide
theorem CanonicalEncoding.jf5 (a : Reg) : CanonicalEncoding.Statement (.jf5 a) := by revert a; unfold CanonicalEncoding.Statement; decide
theorem CanonicalEncoding.rsv3_6 : CanonicalEncoding.Statement (.rsv3_6) := rfl
theorem CanonicalEncoding.rsv3_7 : CanonicalEncoding.Statement (.rsv3_7) := rfl
theorem CanonicalEncoding.rsv3_8 : CanonicalEncoding.Statement (.rsv3_8) := rfl
theorem CanonicalEncoding.rsv3_9 : CanonicalEncoding.Statement (.rsv3_9) := rfl
theorem CanonicalEncoding.rsv3_a : CanonicalEncoding.Statement (.rsv3_a) := rfl
theorem CanonicalEncoding.rsv3_b : CanonicalEncoding.Statement (.rsv3_b) := rfl
theorem CanonicalEncoding.rsv3_c : CanonicalEncoding.Statement (.rsv3_c) := rfl
theorem CanonicalEncoding.rsv3_d : CanonicalEncoding.Statement (.rsv3_d) := rfl
theorem CanonicalEncoding.rsv3_e : CanonicalEncoding.Statement (.rsv3_e) := rfl
theorem CanonicalEncoding.jne (a : Reg) : CanonicalEncoding.Statement (.jne a) := by revert a; unfold CanonicalEncoding.Statement; decide
theorem CanonicalEncoding.add (a b : Reg) : CanonicalEncoding.Statement (.add a b) := canonical_noIgnored _ [] (by decide)
theorem CanonicalEncoding.sub (a b : Reg) : CanonicalEncoding.Statement (.sub a b) := canonical_noIgnored _ [] (by decide)
theorem CanonicalEncoding.mul (a b : Reg) : CanonicalEncoding.Statement (.mul a b) := canonical_noIgnored _ [] (by decide)
theorem CanonicalEncoding.div (a b : Reg) : CanonicalEncoding.Statement (.div a b) := canonical_noIgnored _ [] (by decide)
theorem CanonicalEncoding.mod (a b : Reg) : CanonicalEncoding.Statement (.mod a b) := canonical_noIgnored _ [] (by decide)
theorem CanonicalEncoding.shl (a b : Reg) : CanonicalEncoding.Statement (.shl a b) := canonical_noIgnored _ [] (by decide)
theorem CanonicalEncoding.shr (a b : Reg) : CanonicalEncoding.Statement (.shr a b) := canonical_noIgnored _ [] (by decide)
theorem CanonicalEncoding.or (a b : Reg) : CanonicalEncoding.Statement (.or a b) := canonical_noIgnored _ [] (by decide)
theorem CanonicalEncoding.and (a b : Reg) : CanonicalEncoding.Statement (.and a b) := canonical_noIgnored _ [] (by decide)
theorem CanonicalEncoding.xor (a b : Reg) : CanonicalEncoding.Statement (.xor a b) := canonical_noIgnored _ [] (by decide)
theorem CanonicalEncoding.not (a : Reg) : CanonicalEncoding.Statement (.not a) := by revert a; unfold CanonicalEncoding.Statement; decide
theorem CanonicalEncoding.inc (a : Reg) : CanonicalEncoding.Statement (.inc a) := by revert a; unfold CanonicalEncoding.Statement; decide
theorem CanonicalEncoding.dec (a : Reg) : CanonicalEncoding.Statement (.dec a) := by revert a; unfold CanonicalEncoding.Statement; decide
theorem CanonicalEncoding.rsv4_d : CanonicalEncoding.Statement (.rsv4_d) := rfl
theorem CanonicalEncoding.rsv4_e : CanonicalEncoding.Statement (.rsv4_e) := rfl
theorem CanonicalEncoding.rsv4_f : CanonicalEncoding.Statement (.rsv4_f) := rfl
theorem CanonicalEncoding.rsv5 : CanonicalEncoding.Statement (.rsv5) := rfl
theorem CanonicalEncoding.rsv6 : CanonicalEncoding.Statement (.rsv6) := rfl
theorem CanonicalEncoding.rsv7 : CanonicalEncoding.Statement (.rsv7) := rfl
theorem CanonicalEncoding.rsv8 : CanonicalEncoding.Statement (.rsv8) := rfl
theorem CanonicalEncoding.rsv9 : CanonicalEncoding.Statement (.rsv9) := rfl
theorem CanonicalEncoding.rsva : CanonicalEncoding.Statement (.rsva) := rfl
theorem CanonicalEncoding.rsvb : CanonicalEncoding.Statement (.rsvb) := rfl
theorem CanonicalEncoding.rsvc : CanonicalEncoding.Statement (.rsvc) := rfl
theorem CanonicalEncoding.rsvd : CanonicalEncoding.Statement (.rsvd) := rfl
theorem CanonicalEncoding.hlt : CanonicalEncoding.Statement (.hlt) := rfl
theorem CanonicalEncoding.rsve_1 : CanonicalEncoding.Statement (.rsve_1) := rfl
theorem CanonicalEncoding.rsve_2 : CanonicalEncoding.Statement (.rsve_2) := rfl
theorem CanonicalEncoding.rsve_3 : CanonicalEncoding.Statement (.rsve_3) := rfl
theorem CanonicalEncoding.rsve_4 : CanonicalEncoding.Statement (.rsve_4) := rfl
theorem CanonicalEncoding.rsve_5 : CanonicalEncoding.Statement (.rsve_5) := rfl
theorem CanonicalEncoding.rsve_6 : CanonicalEncoding.Statement (.rsve_6) := rfl
theorem CanonicalEncoding.rsve_7 : CanonicalEncoding.Statement (.rsve_7) := rfl
theorem CanonicalEncoding.rsve_8 : CanonicalEncoding.Statement (.rsve_8) := rfl
theorem CanonicalEncoding.rsve_9 : CanonicalEncoding.Statement (.rsve_9) := rfl
theorem CanonicalEncoding.rsve_a : CanonicalEncoding.Statement (.rsve_a) := rfl
theorem CanonicalEncoding.rsve_b : CanonicalEncoding.Statement (.rsve_b) := rfl
theorem CanonicalEncoding.rsve_c : CanonicalEncoding.Statement (.rsve_c) := rfl
theorem CanonicalEncoding.rsve_d : CanonicalEncoding.Statement (.rsve_d) := rfl
theorem CanonicalEncoding.rsve_e : CanonicalEncoding.Statement (.rsve_e) := rfl
theorem CanonicalEncoding.prt (a : Reg) : CanonicalEncoding.Statement (.prt a) := by revert a; unfold CanonicalEncoding.Statement; decide
theorem CanonicalEncoding.ldi (d : Reg) (imm : Word) : CanonicalEncoding.Statement (.ldi d imm) :=
  canonical_noIgnored _ [_, _] (by revert d; simp only [List.length_cons, List.length_nil]; decide)

end Sys2Proof.Laws
end

