-- ==== Sys2Proof/Tests/Slice0.lean ====
section
/-! SUPPORT. The model's own tests: what the well-formedness checks refuse, one word of every constructor written out from
the encoding tables, at most two single steps per instruction with the expected values of 95_test_vectors.md, and for every
obligation with hypotheses a concrete state and operands that meet them. -/

namespace Sys2Proof.Tests

open Sys2Proof.Machine

/-! ## Helpers -/

/-- A small state: cells and memory as given, the rest as after reset. -/
def small (cells : List (Reg × RawCell)) (mem : Memory) : State :=
  cells.foldl (fun s c => s.setReg c.1 c.2) { State.reset with mem := mem }

/-- A small state about to fetch `code` at `pc`, with `data` in memory at `a`. -/
def ready (pc : RawCell) (code : List Byte) (cells : List (Reg × RawCell)) (a : Nat := 0) (data : List Byte := []) : State :=
  (small cells (placeBytes (placeBytes [] a data) pc.toNat code)).setPc pc

/-- The outcome is a next state with the property. -/
def goesOn (r : Result) (p : State → Bool) : Bool :=
  match r with
  | .next t => p t
  | _ => false

/-- The outcome is a fault with the property. -/
def stops (r : Result) (p : Fault → Bool) : Bool :=
  match r with
  | .fault f => p f
  | _ => false

/-! ## Well-formedness: each check refuses an ill-formed term -/

/-- The pattern has a bit outside the mask. -/
theorem test_wf_pattern_outside_mask : OpcodeRow.wf ⟨"BAD", 2, 0xF0, 0x21, 0x00, 0x00⟩ = false := by decide
/-- A fixed bit is ignored. -/
theorem test_wf_ignores_fixed_bit : OpcodeRow.wf ⟨"BAD", 2, 0xF0, 0x20, 0x1F, 0x00⟩ = false := by decide
/-- The length is not the one the first byte tells (R80). -/
theorem test_wf_wrong_length : OpcodeRow.wf ⟨"BAD", 4, 0xF0, 0x20, 0x0F, 0x00⟩ = false := by decide
/-- Every row of the table passes. -/
theorem test_wf_table : opcodeTable.all OpcodeRow.wf = true := by decide
/-- The table has 64 rows (R86). -/
theorem test_table_length : opcodeTable.length = 64 := by decide

theorem test_canonical_refuses_empty : canonical [] = false := by decide
theorem test_canonical_refuses_one_byte : canonical [0x00] = false := by decide
theorem test_canonical_refuses_short_ldi : canonical [0xF1, 0x00] = false := by decide
theorem test_canonical_refuses_long_nop : canonical [0x00, 0x00, 0x00] = false := by decide
theorem test_canonical_refuses_ignored_bit_of_b0 : canonical [0x11, 0x12] = false := by decide
theorem test_canonical_refuses_ignored_bit_of_b1 : canonical [0x30, 0x11] = false := by decide
theorem test_canonical_accepts_ld : canonical [0x10, 0x12] = true := by decide

theorem test_memory_wf_refuses_unsorted : Memory.wf [(2, 1), (1, 1)] = false := by decide
theorem test_memory_wf_refuses_repeated : Memory.wf [(1, 1), (1, 2)] = false := by decide
theorem test_memory_wf_refuses_listed_default : Memory.wf [(1, 0)] = false := by decide
theorem test_memory_wf_refuses_invalid_address : Memory.wf [(0x1000000, 1)] = false := by decide
theorem test_write_of_default_removes_entry : writeByte [(1, 7), (2, 8)] 1 0 = [(2, 8)] := by decide

/-! ## Decoding: a word of every constructor, written out from 30_encoding.md R81, R82, R83 -/

theorem test_decode_rejects_empty : decode [] = .error .truncated := by decide
theorem test_decode_rejects_one_byte : decode [0x00] = .error .truncated := by decide
theorem test_decode_rejects_short_ldi : decode [0xF1, 0x11, 0x22] = .error .truncated := by decide

theorem test_decode_nop : decode [0b00001111, 0b11111111] = .ok (.nop, []) := rfl
theorem test_decode_ld : decode [0b00010010, 0b00010010] = .ok (.ld 1 2, []) := rfl
theorem test_decode_st : decode [0b00010101, 0b00110100] = .ok (.st 3 4, []) := rfl
theorem test_decode_mov : decode [0b00011011, 0b11111010] = .ok (.mov 15 10, []) := rfl
theorem test_decode_rsv1 : decode [0b00011110, 0b00010010] = .ok (.rsv1, []) := rfl
theorem test_decode_cmp : decode [0b00101010, 0b11100010] = .ok (.cmp 14 2, []) := rfl
theorem test_decode_jmp : decode [0b00110000, 0b00111111] = .ok (.jmp 3, []) := rfl
theorem test_decode_jeq : decode [0b00110001, 0b00111111] = .ok (.jeq 3, []) := rfl
theorem test_decode_jgt : decode [0b00110010, 0b00111111] = .ok (.jgt 3, []) := rfl
theorem test_decode_jf3 : decode [0b00110011, 0b00111111] = .ok (.jf3 3, []) := rfl
theorem test_decode_jlt : decode [0b00110100, 0b00111111] = .ok (.jlt 3, []) := rfl
theorem test_decode_jf5 : decode [0b00110101, 0b00111111] = .ok (.jf5 3, []) := rfl
theorem test_decode_rsv3_6 : decode [0b00110110, 0b00110101] = .ok (.rsv3_6, []) := rfl
theorem test_decode_rsv3_7 : decode [0b00110111, 0b00110101] = .ok (.rsv3_7, []) := rfl
theorem test_decode_rsv3_8 : decode [0b00111000, 0b00110101] = .ok (.rsv3_8, []) := rfl
theorem test_decode_rsv3_9 : decode [0b00111001, 0b00110101] = .ok (.rsv3_9, []) := rfl
theorem test_decode_rsv3_a : decode [0b00111010, 0b00110101] = .ok (.rsv3_a, []) := rfl
theorem test_decode_rsv3_b : decode [0b00111011, 0b00110101] = .ok (.rsv3_b, []) := rfl
theorem test_decode_rsv3_c : decode [0b00111100, 0b00110101] = .ok (.rsv3_c, []) := rfl
theorem test_decode_rsv3_d : decode [0b00111101, 0b00110101] = .ok (.rsv3_d, []) := rfl
theorem test_decode_rsv3_e : decode [0b00111110, 0b00110101] = .ok (.rsv3_e, []) := rfl
theorem test_decode_jne : decode [0b00111111, 0b00110000] = .ok (.jne 3, []) := rfl
theorem test_decode_add : decode [0b01000000, 0b10110101] = .ok (.add 11 5, []) := rfl
theorem test_decode_sub : decode [0b01000001, 0b10110101] = .ok (.sub 11 5, []) := rfl
theorem test_decode_mul : decode [0b01000010, 0b10110101] = .ok (.mul 11 5, []) := rfl
theorem test_decode_div : decode [0b01000011, 0b10110101] = .ok (.div 11 5, []) := rfl
theorem test_decode_mod : decode [0b01000100, 0b10110101] = .ok (.mod 11 5, []) := rfl
theorem test_decode_shl : decode [0b01000101, 0b10110101] = .ok (.shl 11 5, []) := rfl
theorem test_decode_shr : decode [0b01000110, 0b10110101] = .ok (.shr 11 5, []) := rfl
theorem test_decode_or : decode [0b01000111, 0b10110101] = .ok (.or 11 5, []) := rfl
theorem test_decode_and : decode [0b01001000, 0b10110101] = .ok (.and 11 5, []) := rfl
theorem test_decode_xor : decode [0b01001001, 0b10110101] = .ok (.xor 11 5, []) := rfl
theorem test_decode_not : decode [0b01001010, 0b10110101] = .ok (.not 11, []) := rfl
theorem test_decode_inc : decode [0b01001011, 0b10110101] = .ok (.inc 11, []) := rfl
theorem test_decode_dec : decode [0b01001100, 0b10110101] = .ok (.dec 11, []) := rfl
theorem test_decode_rsv4_d : decode [0b01001101, 0b10110101] = .ok (.rsv4_d, []) := rfl
theorem test_decode_rsv4_e : decode [0b01001110, 0b10110101] = .ok (.rsv4_e, []) := rfl
theorem test_decode_rsv4_f : decode [0b01001111, 0b10110101] = .ok (.rsv4_f, []) := rfl
theorem test_decode_rsv5 : decode [0b01011010, 0b10110101] = .ok (.rsv5, []) := rfl
theorem test_decode_rsv6 : decode [0b01101010, 0b10110101] = .ok (.rsv6, []) := rfl
theorem test_decode_rsv7 : decode [0b01111010, 0b10110101] = .ok (.rsv7, []) := rfl
theorem test_decode_rsv8 : decode [0b10001010, 0b10110101] = .ok (.rsv8, []) := rfl
theorem test_decode_rsv9 : decode [0b10011010, 0b10110101] = .ok (.rsv9, []) := rfl
theorem test_decode_rsva : decode [0b10101010, 0b10110101] = .ok (.rsva, []) := rfl
theorem test_decode_rsvb : decode [0b10111010, 0b10110101] = .ok (.rsvb, []) := rfl
theorem test_decode_rsvc : decode [0b11001010, 0b10110101] = .ok (.rsvc, []) := rfl
theorem test_decode_rsvd : decode [0b11011010, 0b10110101] = .ok (.rsvd, []) := rfl
theorem test_decode_hlt : decode [0b11100000, 0b10110101] = .ok (.hlt, []) := rfl
theorem test_decode_rsve_1 : decode [0b11100001, 0b10110101] = .ok (.rsve_1, []) := rfl
theorem test_decode_rsve_2 : decode [0b11100010, 0b10110101] = .ok (.rsve_2, []) := rfl
theorem test_decode_rsve_3 : decode [0b11100011, 0b10110101] = .ok (.rsve_3, []) := rfl
theorem test_decode_rsve_4 : decode [0b11100100, 0b10110101] = .ok (.rsve_4, []) := rfl
theorem test_decode_rsve_5 : decode [0b11100101, 0b10110101] = .ok (.rsve_5, []) := rfl
theorem test_decode_rsve_6 : decode [0b11100110, 0b10110101] = .ok (.rsve_6, []) := rfl
theorem test_decode_rsve_7 : decode [0b11100111, 0b10110101] = .ok (.rsve_7, []) := rfl
theorem test_decode_rsve_8 : decode [0b11101000, 0b10110101] = .ok (.rsve_8, []) := rfl
theorem test_decode_rsve_9 : decode [0b11101001, 0b10110101] = .ok (.rsve_9, []) := rfl
theorem test_decode_rsve_a : decode [0b11101010, 0b10110101] = .ok (.rsve_a, []) := rfl
theorem test_decode_rsve_b : decode [0b11101011, 0b10110101] = .ok (.rsve_b, []) := rfl
theorem test_decode_rsve_c : decode [0b11101100, 0b10110101] = .ok (.rsve_c, []) := rfl
theorem test_decode_rsve_d : decode [0b11101101, 0b10110101] = .ok (.rsve_d, []) := rfl
theorem test_decode_rsve_e : decode [0b11101110, 0b10110101] = .ok (.rsve_e, []) := rfl
theorem test_decode_prt : decode [0b11101111, 0b01111111] = .ok (.prt 7, []) := rfl
theorem test_decode_ldi : decode [0b11110011, 0b01010110, 0b00110100, 0b00010010] = .ok (.ldi 3 0x123456, []) := rfl

/-- The two examples 30_encoding.md R92 gives: `CMP r1, r2` is `20 12`. -/
theorem test_encode_cmp : encode (.cmp 1 2) = [0x20, 0x12] := by decide
/-- The two examples 30_encoding.md R92 gives: `MOV r10, r5` is `18 5A`. -/
theorem test_encode_mov : encode (.mov 5 10) = [0x18, 0x5A] := by decide
/-- The table's word `0x1012` is `LD r2, [r1]`: `b0` is the high byte (R83). -/
theorem test_table_word_ld : decodeTableWord 16 0x1012 = some (.ld 1 2) := by decide
/-- The table's word `0xF3563412` is `LDI r3, 0x123456` (R83, R84). -/
theorem test_table_word_ldi : decodeTableWord 32 0xF3563412 = some (.ldi 3 0x123456) := by decide

/-! ## Single steps (95_test_vectors.md; the vector is named in the comment) -/

/-- V1. -/
theorem test_fetch_past_the_top :
    stops (step (ready 0x1000000 [] [])) (fun f => f == .fetchOutOfRange f.left && f.left.pc == 0x1000000) = true := by decide
/-- V2. -/
theorem test_fetch_second_byte_missing :
    stops (step (ready 0xFFFFFF [0x00] [])) (fun f => f == .fetchOutOfRange f.left && f.left.pc == 0x1000000) = true := by decide
/-- V3. -/
theorem test_fetch_third_byte_missing :
    stops (step (ready 0xFFFFFE [0xF1, 0x11] [])) (fun f => f.left.reg 1 == 0 && f.left.pc == 0x1000000) = true := by decide
/-- V4. -/
theorem test_fetch_fourth_byte_missing :
    stops (step (ready 0xFFFFFD [0xF1, 0x11, 0x22] [])) (fun f => f.left.reg 1 == 0 && f.left.pc == 0x1000000) = true := by decide
/-- V5. -/
theorem test_last_ldi_that_fits :
    goesOn (step (ready 0xFFFFFC [0xF1, 0x11, 0x22, 0x33] [])) (fun t => t.reg 1 == 0x332211 && t.pc == 0x1000000) = true := by decide
/-- V11. -/
theorem test_nop :
    goesOn (step (ready 0x100 [0x0F, 0xFF] [(14, 4)])) (fun t => t.reg 14 == 4 && t.pc == 0x102) = true := by decide
/-- V12. -/
theorem test_rsv5 :
    goesOn (step (ready 0x100 [0x50, 0x00] [])) (fun t => t.status == .cont && t.pc == 0x102) = true := by decide
/-- V13. -/
theorem test_rsv7 :
    goesOn (step (ready 0x100 [0x7A, 0x3C] [])) (fun t => t.status == .cont && t.pc == 0x102) = true := by decide
/-- V14. -/
theorem test_rsvd :
    goesOn (step (ready 0x100 [0xDF, 0xFF] [])) (fun t => t.status == .cont && t.pc == 0x102) = true := by decide
/-- V15. -/
theorem test_rsv1 :
    goesOn (step (ready 0x100 [0x1C, 0xFF] [])) (fun t => t.status == .cont && t.pc == 0x102) = true := by decide
/-- V17: flags 0, no jump. -/
theorem test_rsv3_6 :
    goesOn (step (ready 0x100 [0x36, 0x10] [(1, 0x40)])) (fun t => t.pc == 0x102) = true := by decide
/-- V18: no jump. -/
theorem test_rsv3_e :
    goesOn (step (ready 0x100 [0x3E, 0x10] [(1, 0x40), (14, 1)])) (fun t => t.pc == 0x102) = true := by decide
/-- V20. -/
theorem test_rsv4_f :
    goesOn (step (ready 0x100 [0x4F, 0x12] [(1, 5), (2, 6)])) (fun t => t.reg 1 == 5 && t.pc == 0x102) = true := by decide
/-- V21: does not halt. -/
theorem test_rsve_1 :
    goesOn (step (ready 0x100 [0xE1, 0x00] [])) (fun t => t.status == .cont && t.pc == 0x102) = true := by decide
/-- V22: does not print. -/
theorem test_rsve_e :
    goesOn (step (ready 0x100 [0xEE, 0xF0] [])) (fun t => t.out == [] && t.pc == 0x102) = true := by decide
/-- V31. -/
theorem test_ldi_low_byte_first :
    goesOn (step (ready 0x100 [0xF3, 0x56, 0x34, 0x12] [])) (fun t => t.reg 3 == 0x123456 && t.pc == 0x104) = true := by decide
/-- V37. -/
theorem test_ldi_ignored_destination :
    goesOn (step (ready 0x100 [0xFD, 0x11, 0x22, 0x33] [(13, 0x77)])) (fun t => t.reg 13 == 0x77 && t.pc == 0x104) = true := by decide
/-- V51. -/
theorem test_ld_high_byte_first :
    goesOn (step (ready 0x100 [0x13, 0x12] [(1, 0x20)] 0x20 [0x12, 0x34, 0x56])) (fun t => t.reg 2 == 0x123456 && t.pc == 0x102) = true := by decide
/-- V57. -/
theorem test_ld_fault_keeps_destination :
    stops (step (ready 0x100 [0x10, 0x12] [(1, 0xFFFFFE), (2, 0x55)] 0xFFFFFE [0x01, 0x02])) (fun f => f == .loadOutOfRange f.left && f.left.reg 2 == 0x55) = true := by decide
/-- V70. -/
theorem test_st_stores_ff :
    goesOn (step (ready 0x100 [0x14, 0x34] [(3, 0x123456), (4, 0x30)])) (fun t => t.mem == [(0x30, 0xFF), (0x31, 0xFF), (0x32, 0xFF), (0x100, 0x14), (0x101, 0x34)]) = true := by decide
/-- V75. -/
theorem test_st_fault_leaves_two_bytes :
    stops (step (ready 0x100 [0x14, 0x34] [(4, 0xFFFFFE)])) (fun f => f == .storeOutOfRange f.left && f.left.byteAt 0xFFFFFE == 0xFF && f.left.byteAt 0xFFFFFF == 0xFF) = true := by decide
/-- V94: the cell holds the address of the next instruction. -/
theorem test_mov_link :
    goesOn (step (ready 0x100 [0x18, 0xF8] [])) (fun t => t.reg 8 == 0x102 && t.pc == 0x102) = true := by decide
/-- V9. -/
theorem test_mov_guard_bit :
    goesOn (step (ready 0xFFFFFE [0x18, 0xF1] [])) (fun t => t.reg 1 == 0x1000000) = true := by decide
/-- V104. -/
theorem test_cmp_unsigned :
    goesOn (step (ready 0x100 [0x20, 0x12] [(1, 0x800000), (2, 0x7FFFFF)])) (fun t => t.reg 14 == 2) = true := by decide
/-- V109. -/
theorem test_cmp_reads_after_the_clear :
    goesOn (step (ready 0x100 [0x20, 0xE2] [(14, 4), (2, 5)])) (fun t => t.reg 14 == 4) = true := by decide
/-- Section 3, flags 0. -/
theorem test_jmp :
    goesOn (step (ready 0x100 [0x30, 0x30] [(3, 0x40), (14, 0)])) (fun t => t.pc == 0x40) = true := by decide
/-- Section 3: falls through. -/
theorem test_jmp_through_pc :
    goesOn (step (ready 0x100 [0x30, 0xF0] [])) (fun t => t.pc == 0x102) = true := by decide
/-- Section 3, flags 1. -/
theorem test_jeq_taken :
    goesOn (step (ready 0x100 [0x31, 0x30] [(3, 0x40), (14, 1)])) (fun t => t.pc == 0x40) = true := by decide
/-- Section 3, flags 3. -/
theorem test_jeq_not_taken :
    goesOn (step (ready 0x100 [0x31, 0x30] [(3, 0x40), (14, 3)])) (fun t => t.pc == 0x102) = true := by decide
/-- Section 3, flags 2. -/
theorem test_jgt_taken :
    goesOn (step (ready 0x100 [0x32, 0x30] [(3, 0x40), (14, 2)])) (fun t => t.pc == 0x40) = true := by decide
/-- Section 3, flags 3. -/
theorem test_jgt_not_taken :
    goesOn (step (ready 0x100 [0x32, 0x30] [(3, 0x40), (14, 3)])) (fun t => t.pc == 0x102) = true := by decide
/-- Section 3, flags 3. -/
theorem test_jf3_taken :
    goesOn (step (ready 0x100 [0x33, 0x30] [(3, 0x40), (14, 3)])) (fun t => t.pc == 0x40) = true := by decide
/-- Section 3, flags 2. -/
theorem test_jf3_not_taken :
    goesOn (step (ready 0x100 [0x33, 0x30] [(3, 0x40), (14, 2)])) (fun t => t.pc == 0x102) = true := by decide
/-- Section 3, flags 4. -/
theorem test_jlt_taken :
    goesOn (step (ready 0x100 [0x34, 0x30] [(3, 0x40), (14, 4)])) (fun t => t.pc == 0x40) = true := by decide
/-- Section 3, flags 5. -/
theorem test_jlt_not_taken :
    goesOn (step (ready 0x100 [0x34, 0x30] [(3, 0x40), (14, 5)])) (fun t => t.pc == 0x102) = true := by decide
/-- Section 3, flags 5. -/
theorem test_jf5_taken :
    goesOn (step (ready 0x100 [0x35, 0x30] [(3, 0x40), (14, 5)])) (fun t => t.pc == 0x40) = true := by decide
/-- Section 3, flags 4. -/
theorem test_jf5_not_taken :
    goesOn (step (ready 0x100 [0x35, 0x30] [(3, 0x40), (14, 4)])) (fun t => t.pc == 0x102) = true := by decide
/-- Section 3, flags 3. -/
theorem test_jne_taken :
    goesOn (step (ready 0x100 [0x3F, 0x30] [(3, 0x40), (14, 3)])) (fun t => t.pc == 0x40) = true := by decide
/-- Section 3, flags 1. -/
theorem test_jne_not_taken :
    goesOn (step (ready 0x100 [0x3F, 0x30] [(3, 0x40), (14, 1)])) (fun t => t.pc == 0x102) = true := by decide
/-- V202. -/
theorem test_add_wraps :
    goesOn (step (ready 0x100 [0x40, 0x12] [(1, 0xFFFFFF), (2, 0xFFFFFF)])) (fun t => t.reg 1 == 0xFFFFFE) = true := by decide
/-- V258. -/
theorem test_add_clears_guard :
    goesOn (step (ready 0x100 [0x40, 0x12] [(1, 0x1000000), (2, 0)])) (fun t => t.reg 1 == 0) = true := by decide
/-- V206. -/
theorem test_sub_borrow :
    goesOn (step (ready 0x100 [0x41, 0x12] [(1, 5), (2, 7)])) (fun t => t.reg 1 == 0xFFFFFE) = true := by decide
/-- V212. -/
theorem test_mul_wraps :
    goesOn (step (ready 0x100 [0x42, 0x12] [(1, 0xFFFFFF), (2, 0xFFFFFF)])) (fun t => t.reg 1 == 1) = true := by decide
/-- V214. -/
theorem test_mul_shifts :
    goesOn (step (ready 0x100 [0x42, 0x12] [(1, 0x123456), (2, 0x100)])) (fun t => t.reg 1 == 0x345600) = true := by decide
/-- V215. -/
theorem test_div_floor :
    goesOn (step (ready 0x100 [0x43, 0x12] [(1, 7), (2, 2)])) (fun t => t.reg 1 == 3) = true := by decide
/-- V220. -/
theorem test_div_by_zero :
    stops (step (ready 0x100 [0x43, 0x12] [(1, 5)])) (fun f => f == .divideByZero f.left && f.left.reg 1 == 5) = true := by decide
/-- V225. -/
theorem test_mod :
    goesOn (step (ready 0x100 [0x44, 0x12] [(1, 0xFFFFFF), (2, 0x1000)])) (fun t => t.reg 1 == 0xFFF) = true := by decide
/-- V227. -/
theorem test_mod_by_zero :
    stops (step (ready 0x100 [0x44, 0x12] [(1, 5)])) (fun f => f == .divideByZero f.left && f.left.reg 1 == 5) = true := by decide
/-- V230. -/
theorem test_shl :
    goesOn (step (ready 0x100 [0x45, 0x12] [(1, 0xABCDEF), (2, 4)])) (fun t => t.reg 1 == 0xBCDEF0) = true := by decide
/-- V232. -/
theorem test_shl_by_32 :
    goesOn (step (ready 0x100 [0x45, 0x12] [(1, 0xFFFFFF), (2, 32)])) (fun t => t.reg 1 == 0) = true := by decide
/-- V240. -/
theorem test_shr_guard_is_an_operand_bit :
    goesOn (step (ready 0x100 [0x46, 0x12] [(1, 0x1000000), (2, 24)])) (fun t => t.reg 1 == 1) = true := by decide
/-- V239. -/
theorem test_shr_by_32 :
    goesOn (step (ready 0x100 [0x46, 0x12] [(1, 0xFFFFFF), (2, 32)])) (fun t => t.reg 1 == 0) = true := by decide
/-- V241. -/
theorem test_or :
    goesOn (step (ready 0x100 [0x47, 0x12] [(1, 0x00F0F0), (2, 0x000F0F)])) (fun t => t.reg 1 == 0x00FFFF) = true := by decide
/-- V243. -/
theorem test_and :
    goesOn (step (ready 0x100 [0x48, 0x12] [(1, 0x123456), (2, 0x00FF00)])) (fun t => t.reg 1 == 0x003400) = true := by decide
/-- V245. -/
theorem test_xor :
    goesOn (step (ready 0x100 [0x49, 0x12] [(1, 0xFF00FF), (2, 0x0F0F0F)])) (fun t => t.reg 1 == 0xF00FF0) = true := by decide
/-- V248. -/
theorem test_not :
    goesOn (step (ready 0x100 [0x4A, 0x10] [(1, 0x123456), (2, 0)])) (fun t => t.reg 1 == 0xEDCBA9) = true := by decide
/-- V252. -/
theorem test_inc_wraps :
    goesOn (step (ready 0x100 [0x4B, 0x10] [(1, 0xFFFFFF), (2, 0)])) (fun t => t.reg 1 == 0) = true := by decide
/-- V253. -/
theorem test_inc_flags :
    goesOn (step (ready 0x100 [0x4B, 0xE0] [(14, 1)])) (fun t => t.reg 14 == 2) = true := by decide
/-- V256. -/
theorem test_dec_wraps :
    goesOn (step (ready 0x100 [0x4C, 0x10] [(1, 0), (2, 0)])) (fun t => t.reg 1 == 0xFFFFFF) = true := by decide
/-- V257. -/
theorem test_dec_pc :
    goesOn (step (ready 0x10 [0x4C, 0xF0] [])) (fun t => t.pc == 0x11) = true := by decide
/-- V301. -/
theorem test_hlt :
    goesOn (step (ready 0x24 [0xE0, 0xFF] [(1, 5), (14, 2)])) (fun t => t.status == .halt && t.pc == 0x26) = true := by decide
/-- V308. -/
theorem test_prt_unfiltered :
    goesOn (step (ready 0x100 [0xEF, 0x10] [(1, 0x40)] 0x40 [0x80, 0xFF, 0x0A, 0x00])) (fun t => t.out == [0x80, 0xFF, 0x0A]) = true := by decide
/-- V305. -/
theorem test_prt_fault_keeps_output :
    stops (step (ready 0x100 [0xEF, 0x10] [(1, 0xFFFFFE)] 0xFFFFFE [0x41, 0x42])) (fun f => f == .printOutOfRange f.left && f.left.out == [0x41, 0x42]) = true := by decide

/-- U4: no step after `Halt`. -/
theorem test_no_step_after_halt : step { State.reset with status := .halt } = .refused .stepAfterHalt := rfl

/-! ## Hypotheses that can be met: a witness for every obligation that has some, for each clause, at the ends of its range -/

section Witnesses

/-- The bytes fetched give the instruction, in a form that names it. -/
theorem fetches_iff {s s' : State} {f : FetchedBytes} (h : fetch s = .ok (f, s')) {i : Instr} :
    Fetches s i ↔ f.instr = i := by
  constructor
  · rintro ⟨g, u, hg, hi⟩
    rw [h] at hg
    cases hg
    exact hi
  · exact fun hi => ⟨f, s', h, hi⟩

theorem witness_EncodeInvertsDecodeOnCanonicalBytes :
    canonical [0x1C, 0x00] = true ∧ canonical [0xEF, 0xF0] = true ∧ canonical [0xFF, 0xFF, 0xFF, 0xFF] = true := by decide

theorem witness_IgnoredBitsNeverMatter :
    ∃ r ∈ opcodeTable, ∃ b0 b1 c0 c1 : Byte, b0 ≠ c0 ∧ b1 ≠ c1 ∧ r.matchesByte b0 = true ∧
      (b0 ^^^ c0) &&& ~~~r.ignored0 = 0 ∧ (b1 ^^^ c1) &&& ~~~r.ignored1 = 0 :=
  ⟨⟨"RSV1", 2, 0xFC, 0x1C, 0x03, 0xFF⟩, by decide, 0x1C, 0x00, 0x1F, 0xFF, by decide⟩

theorem witness_FirstByteTellsLengthAndDecodeIsTotal :
    (0x00 : Byte).toNat / 16 ≠ 15 ∧ (0xEF : Byte).toNat / 16 ≠ 15 ∧ (0xF0 : Byte).toNat / 16 = 15 ∧
      (0xFF : Byte).toNat / 16 = 15 ∧ ([0x00] : List Byte).length < 2 ∧ ([0x11] : List Byte).length < 2 := by decide

theorem witness_DecoderFollowsTheOpcodeTable :
    ∃ r ∈ opcodeTable, r.matchesByte 0xFF = true ∧ r.length = 4 :=
  ⟨⟨"LDI", 4, 0xF0, 0xF0, 0x00, 0x00⟩, by decide, by decide, rfl⟩

theorem witness_StepRunsTheDecodedInstruction_two_bytes :
    let s := ready 0xFFFFFE [0x40, 0x12] []
    s.status = .cont ∧ decode s.bytesAtPc = .ok (.add 1 2, [0x00, 0x00]) ∧
      s.pc.toNat + Instr.length (.add 1 2) ≤ 0x1000000 := by decide

theorem witness_StepRunsTheDecodedInstruction_four_bytes :
    let s := ready 0xFFFFFC [0xF1, 0x11, 0x22, 0x33] []
    s.status = .cont ∧ decode s.bytesAtPc = .ok (.ldi 1 0x332211, []) ∧
      s.pc.toNat + Instr.length (.ldi 1 0x332211) ≤ 0x1000000 := by decide

theorem witness_FetchAtTheTopOfMemory :
    0x1000000 ≤ (ready 0x1000000 [] []).pc.toNat ∧ (ready 0x1000000 [] []).status = .cont ∧
    (ready 0xFFFFFF [0x00] []).pc = 0xFFFFFF ∧ (ready 0xFFFFFF [0x00] []).status = .cont ∧
    (let s := ready 0xFFFFFE [0xF0, 0x00] [];
      s.status = .cont ∧ s.pc = 0xFFFFFE ∧ (s.byteAt 0xFFFFFE).toNat / 16 = 15) ∧
    (let s := ready 0xFFFFFD [0xFF, 0x00] [];
      s.status = .cont ∧ s.pc = 0xFFFFFD ∧ (s.byteAt 0xFFFFFD).toNat / 16 = 15) ∧
    (let s := ready 0xFFFFFE [0xEF, 0x00] [];
      s.status = .cont ∧ s.pc = 0xFFFFFE ∧ (s.byteAt 0xFFFFFE).toNat / 16 ≠ 15) ∧
    (let s := ready 0xFFFFFC [0xF0, 0x00] [];
      s.status = .cont ∧ s.pc = 0xFFFFFC ∧ (s.byteAt 0xFFFFFC).toNat / 16 = 15) := by decide

theorem witness_NoStepAfterTheEndOfTheRun :
    (State.reset.withStatus .halt).status = .halt ∧ (State.reset.withStatus .fault).status = .fault := by decide

theorem witness_LdiStepSetsCellAndAdvancesByFour :
    ∀ d ∈ ([0, 9, 10, 13, 14, 15] : List Reg),
      let s := ready 0xFFFFFC [nibbles 15 d, 0x11, 0x22, 0x33] []
      s.status = .cont ∧ s.pc.toNat + 4 ≤ 0x1000000 ∧ s.byteAt s.pc.toNat = nibbles 15 d := by decide

theorem witness_StoreIsSeenByTheNextFetch :
    let s := ready 0xFFFFFA [0x14, 0x3F, 0x01, 0x02] []
    s.status = .cont ∧ s.pc.toNat + 6 ≤ 0x1000000 ∧
      decode s.bytesAtPc = .ok (.st 3 pcReg, [s.byteAt (s.pc.toNat + 2), s.byteAt (s.pc.toNat + 3)]) := by decide

theorem witness_MovFromPcGivesTheNextAddress :
    let s := ready 0xFFFFFE [0x18, 0xF1] []
    s.status = .cont ∧ s.pc.toNat + 2 ≤ 0x1000000 ∧ (1 : Reg) ≠ pcReg ∧
      decode s.bytesAtPc = .ok (.mov pcReg 1, [0x00, 0x00]) := by decide

theorem witness_NopAndReservedEncodingsChangeNothing :
    Instr.rsve_e ∈ noOps ∧ noOps.length = 37 ∧
    ∀ b0 ∈ ([0x00, 0x0F, 0x1C, 0x1F, 0x36, 0x3E, 0x4D, 0xDF, 0xE1, 0xEE] : List Byte),
      (b0.toNat ≤ 0x0F ∨ (0x1C ≤ b0.toNat ∧ b0.toNat ≤ 0x1F) ∨ (0x36 ≤ b0.toNat ∧ b0.toNat ≤ 0x3E) ∨
        (0x4D ≤ b0.toNat ∧ b0.toNat ≤ 0xDF) ∨ (0xE1 ≤ b0.toNat ∧ b0.toNat ≤ 0xEE)) := by decide

theorem witness_LdiWritesValidatedDestinationsOnly :
    (∀ d ∈ ([0, 9, 14, 15] : List Reg), d ≤ 9 ∨ d = 14 ∨ d = 15) ∧
      ∀ d ∈ ([10, 13] : List Reg), 10 ≤ d ∧ d ≤ 13 := by decide

theorem witness_LdLoadsThreeBytesHighFirst :
    (small [(1, 0xFFFFFD)] []).loadAddress 1 ≤ 0xFFFFFD ∧ (small [(1, 0x1000000)] []).loadAddress 1 ≤ 0xFFFFFD ∧
      0xFFFFFE ≤ (small [(1, 0xFFFFFE)] []).loadAddress 1 ∧ 0xFFFFFE ≤ (small [(1, 0xFFFFFF)] []).loadAddress 1 := by
  decide

theorem witness_StWritesThreeBytesOfFF :
    (small [(4, 0xFFFFFD)] []).storeAddress 4 ≤ 0xFFFFFD ∧ 0xFFFFFE ≤ (small [(4, 0xFFFFFE)] []).storeAddress 4 ∧
      0xFFFFFE ≤ (small [(4, 0x1000000)] []).storeAddress 4 := by decide

/-- The two cases of each equality jump: `JEQ` to `JF5` with the flags cell at the tested value and beside it. -/
theorem witness_EqualityJumpsCompareTheWholeFlagsCell :
    ((small [(14, 1)] []).reg flagsReg).toNat = 1 ∧ ((small [(14, 2)] []).reg flagsReg).toNat = 2 ∧
      ((small [(14, 3)] []).reg flagsReg).toNat = 3 ∧ ((small [(14, 4)] []).reg flagsReg).toNat = 4 ∧
      ((small [(14, 5)] []).reg flagsReg).toNat = 5 ∧ ((small [(14, 0x1000001)] []).reg flagsReg).toNat ≠ 1 := by decide

theorem witness_JneJumpsUnlessTheFlagsCellIsOne :
    ((small [(14, 1)] []).reg flagsReg).toNat = 1 ∧ ((small [(14, 0)] []).reg flagsReg).toNat ≠ 1 := by decide

theorem witness_DivAndModOrDivideByZero :
    (small [(2, 1)] []).reg 2 ≠ 0 ∧ (small [(2, 0x1000000)] []).reg 2 ≠ 0 ∧ (small [] []).reg 2 = 0 := by decide

theorem witness_ShiftsTakeTheWholeCellAsAmount :
    24 ≤ ((small [(2, 24)] []).reg 2).toNat ∧ 25 ≤ ((small [(2, 25)] []).reg 2).toNat ∧
      ((small [(1, 0xFFFFFF), (2, 24)] []).reg 2).toNat = 24 ∧
      ((small [(1, 0xFFFFFF), (2, 24)] []).reg 1).toNat < 0x1000000 := by decide

/-- The empty string at the last address: `n = 0`. -/
theorem witness_PrtEmitsUpToTheFirstZeroByte_empty :
    let s := small [(1, 0xFFFFFF)] []
    s.printAddress 1 + 0 < 0x1000000 ∧ s.byteAt (s.printAddress 1 + 0) = 0 ∧
      ∀ k < 0, s.byteAt (s.printAddress 1 + k) ≠ 0 := by decide

/-- Two bytes and a terminator at the last address. -/
theorem witness_PrtEmitsUpToTheFirstZeroByte_string :
    let s := small [(1, 0xFFFFFD)] [(0xFFFFFD, 0x41), (0xFFFFFE, 0x42)]
    s.printAddress 1 + 2 < 0x1000000 ∧ s.byteAt (s.printAddress 1 + 2) = 0 ∧
      ∀ k < 2, s.byteAt (s.printAddress 1 + k) ≠ 0 := by decide

/-- No terminator: one byte at the last address. -/
theorem witness_PrtEmitsUpToTheFirstZeroByte_fault :
    let s := small [(1, 0xFFFFFF)] [(0xFFFFFF, 0x41)]
    ∀ q, s.printAddress 1 ≤ q → q < 0x1000000 → s.byteAt q ≠ 0 := by
  intro s q h1 h2
  have h : s.printAddress 1 = 0xFFFFFF := rfl
  have hq : q = 0xFFFFFF := by omega
  subst hq
  decide

/-- No terminator: a start address outside memory. -/
theorem witness_PrtEmitsUpToTheFirstZeroByte_outside :
    let s := small [(1, 0x1000000)] []
    ∀ q, s.printAddress 1 ≤ q → q < 0x1000000 → s.byteAt q ≠ 0 := by
  intro s q h1 h2
  have h : s.printAddress 1 = 0x1000000 := rfl
  omega

theorem witness_LdAndLdiReadOppositeByteOrders :
    let s := small [(1, 0xFFFFFD)] [(0xFFFFFD, 0x12), (0xFFFFFE, 0x34), (0xFFFFFF, 0x56)]
    s.loadAddress 1 ≤ 0xFFFFFD ∧ s.byteAt (s.loadAddress 1) = 0x12 ∧ s.byteAt (s.loadAddress 1 + 1) = 0x34 ∧
      s.byteAt (s.loadAddress 1 + 2) = 0x56 := by decide

/-- The three orders of the operands, an operand naming the flags cell, and the flags cell before any `CMP`. -/
theorem witness_CompareOutcomeTable :
    (let s := small [(1, 0xFFFFFF), (2, 0xFFFFFF)] [];
      (∃ t, exec (.cmp 1 2) s = .next t) ∧ (s.reg 1).toNat % 0x1000000 = (s.reg 2).toNat % 0x1000000) ∧
    (let s := small [(1, 0xFFFFFF)] [];
      (∃ t, exec (.cmp 1 2) s = .next t) ∧ (s.reg 2).toNat % 0x1000000 < (s.reg 1).toNat % 0x1000000) ∧
    (let s := small [(1, 0x1000000), (2, 1)] [];
      (∃ t, exec (.cmp 1 2) s = .next t) ∧ (s.reg 1).toNat % 0x1000000 < (s.reg 2).toNat % 0x1000000) ∧
    (let s := small [(14, 4), (2, 3)] [];
      (∃ t, exec (.cmp flagsReg 2) s = .next t) ∧ 0 < (s.reg 2).toNat % 0x1000000) ∧
    State.reset.reg flagsReg = 0 :=
  ⟨⟨⟨_, rfl⟩, by decide⟩, ⟨⟨_, rfl⟩, by decide⟩, ⟨⟨_, rfl⟩, by decide⟩, ⟨⟨_, rfl⟩, by decide⟩, rfl⟩

/-- A `CMP`, from flags that an earlier one left. -/
theorem witness_FlagsStayLegalUnlessNamed :
    ∃ s t : State, s.flagsLegal ∧ Leaves s t ∧
      (∀ i, Fetches s i → flagsReg ∈ cellsWritten i → ∃ a b, i = .cmp a b) ∧ s.flags = 4 := by
  have h : fetch (ready 0x100 [0x20, 0x12] [(14, 4)]) =
      .ok (⟨0x20, 0x12, 0, 0⟩, (ready 0x100 [0x20, 0x12] [(14, 4)]).setPc 0x102) := by decide
  exact ⟨ready 0x100 [0x20, 0x12] [(14, 4)], _, .inr (.inr (.inr (by decide))), .inl rfl,
    fun i hi _ => ⟨1, 2, ((fetches_iff h).1 hi).symm⟩, by decide⟩

/-- A faulting step, from a flags cell of 0. -/
theorem witness_FlagsStayLegalUnlessNamed_fault :
    ∃ s t : State, s.flagsLegal ∧ Leaves s t ∧
      (∀ i, Fetches s i → flagsReg ∈ cellsWritten i → ∃ a b, i = .cmp a b) ∧ t.status = .fault := by
  have h : fetch (ready 0x100 [0x43, 0x12] []) =
      .ok (⟨0x43, 0x12, 0, 0⟩, (ready 0x100 [0x43, 0x12] []).setPc 0x102) := by decide
  refine ⟨ready 0x100 [0x43, 0x12] [], _, .inl (by decide), .inr ⟨_, rfl, rfl⟩, fun i hi hw => ?_, rfl⟩
  rw [← (fetches_iff h).1 hi] at hw
  exact absurd hw (by decide)

theorem witness_OnlyTheNamedResultIsWritten :
    ∃ s t : State, exec (.st 3 4) s = .next t ∧ s.storeAddress 4 = 0xFFFFFD :=
  ⟨small [(4, 0xFFFFFD)] [], _, rfl, rfl⟩

/-- Each fault condition is met in some state, and missed in another. -/
theorem witness_FaultsExactlyUnderTheListedConditions :
    FaultCondition (.ld 1 2) (small [(1, 0xFFFFFE)] []) ∧ ¬ FaultCondition (.ld 1 2) (small [(1, 0xFFFFFD)] []) ∧
    FaultCondition (.st 1 2) (small [(2, 0x1000000)] []) ∧ ¬ FaultCondition (.st 1 2) (small [(2, 0xFFFFFD)] []) ∧
    FaultCondition (.div 1 2) (small [] []) ∧ ¬ FaultCondition (.div 1 2) (small [(2, 1)] []) ∧
    FaultCondition (.mod 1 2) (small [] []) ∧ ¬ FaultCondition (.mod 1 2) (small [(2, 1)] []) ∧
    FaultCondition (.prt 1) (small [(1, 0x1000000)] []) ∧ ¬ FaultCondition (.prt 1) (small [] []) := by
  refine ⟨by unfold FaultCondition; decide, by unfold FaultCondition; decide, by unfold FaultCondition; decide,
    by unfold FaultCondition; decide, by unfold FaultCondition; decide, by unfold FaultCondition; decide,
    by unfold FaultCondition; decide, by unfold FaultCondition; decide, ?_, fun h => h 0 (by decide) (by decide) rfl⟩
  intro q h1 h2
  have h : (small [(1, 0x1000000)] []).printAddress 1 = 0x1000000 := rfl
  rw [memSize] at h2
  omega

theorem witness_OnlyCopiesCarryTheGuardBit :
    ∃ s t : State, exec (.mov pcReg 1) s = .next t ∧ 0x1000000 ≤ (t.reg 1).toNat ∧ s.reg 1 = 0 :=
  ⟨small [(15, 0x1000000)] [], _, rfl, by decide, by decide⟩

theorem witness_GuardBitsDoNotReachTheAluResult :
    let s := small [(1, 5), (2, 3)] []
    let s' := small [(1, 0x1000005), (2, 3)] []
    s.val 1 = s'.val 1 ∧ s.val 2 = s'.val 2 ∧ s.reg 2 = s'.reg 2 ∧ s.reg 1 ≠ s'.reg 1 := by decide

theorem witness_QuotientAndRemainderRebuildTheDividend :
    let s := small [(1, 0xFFFFFF), (2, 0x1000)] []
    (s.reg 1).toNat < 0x1000000 ∧ (s.reg 2).toNat < 0x1000000 ∧ s.reg 2 ≠ 0 := by decide

/-- An `ST` that goes on, from a state with cells at both ends of the range. -/
theorem witness_StepKeepsCellsInRangeAndMemoryCanonical :
    ∃ s t : State, s.wf ∧ Leaves s t ∧ (s.reg 1).toNat = 0x1000000 ∧ t.mem ≠ s.mem :=
  ⟨ready 0x100 [0x14, 0x34] [(1, 0x1000000), (4, 0x30)], _, ⟨by decide, by unfold State.cellsInRange; decide⟩, .inl rfl,
    by decide, by decide⟩

/-- An `ST` that faults after two bytes. -/
theorem witness_StepKeepsCellsInRangeAndMemoryCanonical_fault :
    ∃ s t : State, s.wf ∧ Leaves s t ∧ t.status = .fault ∧ t.mem ≠ s.mem :=
  ⟨ready 0x100 [0x14, 0x34] [(4, 0xFFFFFE)], _, ⟨by decide, by unfold State.cellsInRange; decide⟩, .inr ⟨_, rfl, rfl⟩,
    rfl, by decide⟩

theorem witness_ResetAndStartAreWellFormed : Memory.wf [(0, 0xE0), (0xFFFFFF, 1)] = true := by decide

/-- A state one step after the start, with `pc = 0x1000000`. -/
theorem witness_CellsStayInRangeInEveryRun :
    ∃ s : State, Reachable [] 0xFFFFFE s ∧ s.pc = 0x1000000 :=
  ⟨_, .step .start (.inl rfl), by decide⟩

theorem witness_OnlyStoresChangeMemoryAndOnlyToFF :
    ∃ s t : State, Leaves s t ∧ t.byteAt 0x32 ≠ s.byteAt 0x32 :=
  ⟨ready 0x100 [0x14, 0x34] [(4, 0x30)], _, .inl rfl, by decide⟩

theorem witness_OutputOnlyGrowsAndOnlyByPrt :
    ∃ s t : State, Leaves s t ∧ t.out = s.out ++ [0x41] :=
  ⟨ready 0x100 [0xEF, 0x10] [(1, 0x40)] 0x40 [0x41], _, .inl rfl, by decide⟩

theorem witness_StepAdvancesPcByTheInstructionLength :
    ∃ s t : State, Fetches s (.inc 1) ∧ step s = .next t ∧ pcReg ∉ cellsWritten (.inc 1) ∧ s.pc = 0xFFFFFE :=
  ⟨ready 0xFFFFFE [0x4B, 0x10] [], _, (fetches_iff rfl).2 rfl, rfl, by decide, by decide⟩

/-- A conditional jump, taken. -/
theorem witness_StepAdvancesPcByTheInstructionLength_jump :
    ∃ s t : State, Fetches s (.jeq 3) ∧ step s = .next t ∧ t.pc = s.reg 3 ∧ t.pc ≠ s.pc + 2 :=
  ⟨ready 0x100 [0x31, 0x30] [(3, 0x40), (14, 1)], _, (fetches_iff rfl).2 rfl, rfl, by decide, by decide⟩

theorem witness_CanonicalMemoriesAreDeterminedByTheirBytes :
    ∃ m m' : Memory, m ≠ [] ∧ m.wf = true ∧ m'.wf = true ∧ ∀ a, readByte m a = readByte m' a :=
  ⟨[(0, 1), (0xFFFFFF, 2)], [(0, 1), (0xFFFFFF, 2)], by decide, by decide, by decide, fun _ => rfl⟩

/-- At the last `pc` where four bytes fit, and at one where they do not. -/
theorem witness_PlacedWordIsTheNextInstruction :
    (ready 0xFFFFFC [0x01] []).mem.wf = true ∧ (ready 0xFFFFFD [0x01] []).mem.wf = true ∧
      decodeTableWord 16 0xE000 = some .hlt ∧ decodeTableWord 32 0xF1112233 = some (.ldi 1 0x332211) := by decide

end Witnesses

end Sys2Proof.Tests
end

/-! # Proofs: the state after reset (10_state.md R35) -/

namespace Sys2Proof.Machine

/-- The memory of the state after reset lists no cell, so every byte is the one of an unlisted address. -/
theorem byteAt_reset (a : Nat) : State.reset.byteAt a = 0 :=
  calc State.reset.byteAt a
    _ = readByte [] a := by rw [byteAt_eq, mem_reset]
    _ = unlistedByte := readByte_nil a
    _ = 0 := rfl

/-- Settles O44: the registers, the bytes of memory and the output of the state after reset, each by its own lemma. -/
theorem resetIsAllZero : Obligations.ResetIsAllZero :=
  ⟨reg_reset, byteAt_reset, out_reset⟩

end Sys2Proof.Machine

/-! # Proofs: the opcode table and the decoder (30_encoding.md R86) -/

namespace Sys2Proof

/-- What a row of the opcode table says of its instructions: mnemonic and length. -/
def OpcodeRow.heading (r : OpcodeRow) : String × Nat := (r.mnemonic, r.length)

/-- The heading of the row an instruction belongs to. -/
def Instr.heading (i : Instr) : String × Nat := (i.mnemonic, i.length)

/-! ## The bytes after the first never take part in selecting the row -/

theorem heading_decodeTransfer (b0 b1 : Byte) : (decodeTransfer b0 b1).heading = (decodeTransfer b0 0).heading := by
  unfold decodeTransfer
  split <;> rfl

theorem heading_decodeJump (b0 b1 : Byte) : (decodeJump b0 b1).heading = (decodeJump b0 0).heading := by
  unfold decodeJump
  split <;> rfl

theorem heading_decodeAlu (b0 b1 : Byte) : (decodeAlu b0 b1).heading = (decodeAlu b0 0).heading := by
  unfold decodeAlu
  split <;> rfl

theorem heading_decodeSystem (b0 b1 : Byte) : (decodeSystem b0 b1).heading = (decodeSystem b0 0).heading := by
  unfold decodeSystem
  split <;> rfl

/-- "`b1` never takes part in selecting the instruction" (R86), nor do the bytes after it. -/
theorem heading_decodeBytes (b0 b1 b2 b3 : Byte) :
    (decodeBytes b0 b1 b2 b3).heading = (decodeBytes b0 0 0 0).heading := by
  unfold decodeBytes
  split
  case h_2 => exact heading_decodeTransfer b0 b1
  case h_4 => exact heading_decodeJump b0 b1
  case h_5 => exact heading_decodeAlu b0 b1
  case h_15 => exact heading_decodeSystem b0 b1
  all_goals rfl

/-! ## Class by class, then `p2` by `p2`, the table agrees with the decoder -/

theorem highNibble_append_lowNibble (b : Byte) : highNibble b ++ lowNibble b = b := by
  unfold highNibble lowNibble
  rw [BitVec.extractLsb'_append_extractLsb'_eq_extractLsb' (by rfl)]
  exact BitVec.extractLsb'_eq_self

/-- The rows of the opcode table of one class, the high nibble of the first byte. -/
def rowsOfClass (c : BitVec 4) : List OpcodeRow :=
  match c with
  | 0x0#4 => opcodeRowsPlain.take 1
  | 0x1#4 => (opcodeRowsPlain.drop 1).take 4
  | 0x2#4 => opcodeRowsPlain.drop 5
  | 0x3#4 => opcodeRowsJump
  | 0x4#4 => opcodeRowsAlu
  | 0xE#4 => opcodeRowsSystem.take 16
  | 0xF#4 => opcodeRowsSystem.drop 16
  | c => (opcodeRowsReserved.drop (c.toNat - 5)).take 1

theorem filter_class_opcodeTable (c : BitVec 4) :
    opcodeTable.filter (fun r => highNibble r.pattern == c) = rowsOfClass c := by
  revert c; decide

/-- Every row fixes the class. -/
theorem highNibble_mask_of_mem_opcodeTable : ∀ r ∈ opcodeTable, highNibble r.mask = 0xF#4 := by decide

theorem highNibble_pattern_of_matchesByte {r : OpcodeRow} {b0 : Byte} (hr : r ∈ opcodeTable)
    (hb : r.matchesByte b0 = true) : highNibble r.pattern = highNibble b0 :=
  calc highNibble r.pattern
    _ = highNibble (b0 &&& r.mask) := by rw [eq_of_beq hb]
    _ = highNibble b0 &&& highNibble r.mask := BitVec.extractLsb'_and
    _ = highNibble b0 &&& BitVec.allOnes 4 := by rw [highNibble_mask_of_mem_opcodeTable r hr]; rfl
    _ = highNibble b0 := BitVec.and_allOnes

theorem filter_matchesByte_opcodeTable (b0 : Byte) :
    opcodeTable.filter (·.matchesByte b0) = (rowsOfClass (highNibble b0)).filter (·.matchesByte b0) := by
  rw [← filter_class_opcodeTable, List.filter_filter]
  refine List.filter_congr fun r hr => ?_
  cases hb : r.matchesByte b0
  · rfl
  · simp [highNibble_pattern_of_matchesByte hr hb]

/-- Within class `c`, exactly one row matches the first byte with low nibble `p2`, and it is the decoder's. -/
theorem headings_rowsOfClass (c p2 : BitVec 4) :
    ((rowsOfClass c).filter (·.matchesByte (c ++ p2))).map OpcodeRow.heading =
      [(decodeBytes (c ++ p2) 0 0 0).heading] := by
  revert c p2; decide

theorem headings_opcodeTable (b0 b1 b2 b3 : Byte) :
    (opcodeTable.filter (·.matchesByte b0)).map OpcodeRow.heading = [(decodeBytes b0 b1 b2 b3).heading] := by
  rw [filter_matchesByte_opcodeTable, heading_decodeBytes]
  simpa only [highNibble_append_lowNibble] using headings_rowsOfClass (highNibble b0) (lowNibble b0)

theorem length_filter_matchesByte (b0 : Byte) : (opcodeTable.filter (·.matchesByte b0)).length = 1 := by
  simpa using congrArg List.length (headings_opcodeTable b0 0 0 0)

theorem heading_decodeBytes_of_matchesByte {r : OpcodeRow} (hr : r ∈ opcodeTable) {b0 : Byte} (b1 b2 b3 : Byte)
    (hb : r.matchesByte b0 = true) : (decodeBytes b0 b1 b2 b3).heading = r.heading := by
  have hmem : r.heading ∈ (opcodeTable.filter (·.matchesByte b0)).map OpcodeRow.heading :=
    List.mem_map_of_mem (List.mem_filter.mpr ⟨hr, hb⟩)
  rw [headings_opcodeTable b0 b1 b2 b3, List.mem_singleton] at hmem
  exact hmem.symm

/-- Settles O5: `b1` does not select the row, and for each first byte the rows that match are one row, the decoder's. -/
theorem decoderFollowsTheOpcodeTable : Obligations.DecoderFollowsTheOpcodeTable :=
  ⟨rfl, length_filter_matchesByte, fun _ hr _ b1 b2 b3 hb =>
    Prod.ext_iff.mp (heading_decodeBytes_of_matchesByte hr b1 b2 b3 hb)⟩

end Sys2Proof

/-! # Proofs: `NOP` and the reserved encodings (30_encoding.md R89, 40_step_and_nop.md R114) -/

namespace Sys2Proof.Machine

/-! ## What a no-op does -/

theorem exec_of_mem_noOps {i : Instr} (hi : i ∈ noOps) (s : State) : exec i s = returnContinue s := by
  fin_cases hi <;> rfl

theorem changesNothing_withStatus (s : State) : ChangesNothing s (s.withStatus .cont) :=
  ⟨⟨reg_withStatus s .cont, byteAt_withStatus s .cont, out_withStatus s .cont⟩, status_withStatus s .cont⟩

/-! ## Which bytes are read as a no-op -/

/-- The no-ops are told by the mnemonic alone. -/
theorem mem_noOps_iff_mnemonic (i : Instr) : i ∈ noOps ↔ i.mnemonic ∈ noOps.map Instr.mnemonic := by
  rw [← decide_eq_decide]
  cases i <;> rfl

/-- The first byte alone tells whether an instruction is a no-op. -/
theorem decodeBytes_mem_noOps_iff (b0 b1 b2 b3 : Byte) :
    decodeBytes b0 b1 b2 b3 ∈ noOps ↔ decodeBytes b0 0 0 0 ∈ noOps := by
  have hmnemonic : (decodeBytes b0 b1 b2 b3).mnemonic = (decodeBytes b0 0 0 0).mnemonic :=
    congrArg Prod.fst (heading_decodeBytes b0 b1 b2 b3)
  rw [mem_noOps_iff_mnemonic, hmnemonic, ← mem_noOps_iff_mnemonic]

/-- The first bytes of `NOP` (R114) and of the reserved encodings (R89) are those of two-byte no-ops. -/
theorem noOp_of_firstByte (b0 : Byte) :
    (b0.toNat ≤ 0x0F ∨ (0x1C ≤ b0.toNat ∧ b0.toNat ≤ 0x1F) ∨ (0x36 ≤ b0.toNat ∧ b0.toNat ≤ 0x3E) ∨
      (0x4D ≤ b0.toNat ∧ b0.toNat ≤ 0xDF) ∨ (0xE1 ≤ b0.toNat ∧ b0.toNat ≤ 0xEE)) →
    isLongForm b0 = false ∧ decodeBytes b0 0 0 0 ∈ noOps := by
  revert b0; decide

/-- A first byte of the two-byte form is decoded with the byte after it (30_encoding.md R80). -/
theorem decode_of_not_isLongForm {b0 : Byte} (h : isLongForm b0 = false) (b1 : Byte) (rest : List Byte) :
    decode (b0 :: b1 :: rest) = .ok (decodeBytes b0 b1 0 0, rest) := by
  simp [decode, h]

/-- Settles O13: a no-op is `returnContinue` alone, and what the first byte tells holds with any second byte. -/
theorem nopAndReservedEncodingsChangeNothing : Obligations.NopAndReservedEncodingsChangeNothing := by
  constructor
  · intro i hi s
    exact ⟨s.withStatus .cont, exec_of_mem_noOps hi s, changesNothing_withStatus s⟩
  · intro b0 b1 rest hb0
    obtain ⟨hshort, hnoOp⟩ := noOp_of_firstByte b0 hb0
    exact ⟨decodeBytes b0 b1 0 0, (decodeBytes_mem_noOps_iff b0 b1 0 0).mpr hnoOp,
      decode_of_not_isLongForm hshort b1 rest⟩

end Sys2Proof.Machine

/-! # Proofs: the fetch at the top of memory (40_step_and_nop.md R111, R116) -/

namespace Sys2Proof.Machine

/-! ## The first byte tells the length -/

/-- The long form is the one whose first byte has the high nibble 15 (30_encoding.md R80). -/
theorem isLongForm_iff_toNat_div (b0 : Byte) : isLongForm b0 = true ↔ b0.toNat / 16 = 15 := by
  revert b0; decide

theorem formLength_eq_four {b0 : Byte} (h : b0.toNat / 16 = 15) : formLength b0 = 4 :=
  if_pos ((isLongForm_iff_toNat_div b0).mpr h)

theorem formLength_eq_two {b0 : Byte} (h : b0.toNat / 16 ≠ 15) : formLength b0 = 2 :=
  if_neg (mt (isLongForm_iff_toNat_div b0).mp h)

theorem two_le_formLength (b0 : Byte) : 2 ≤ formLength b0 := by
  unfold formLength
  split <;> decide

/-- A first byte of the four-byte form is decoded with the three bytes after it (30_encoding.md R80). -/
theorem decode_of_isLongForm {b0 : Byte} (h : isLongForm b0 = true) (b1 b2 b3 : Byte) (rest : List Byte) :
    decode (b0 :: b1 :: b2 :: b3 :: rest) = .ok (decodeBytes b0 b1 b2 b3, rest) := by
  simp [decode, h]

/-! ## What the step makes of its fetch -/

theorem step_of_fetch_error {s left : State} (hs : s.status = .cont) (hf : fetch s = .error left) :
    step s = .fault (.fetchOutOfRange (left.withStatus .fault)) := by
  simp [step, hs, hf, raiseFault]

theorem step_of_fetch_ok {s s' : State} {f : FetchedBytes} (hs : s.status = .cont) (hf : fetch s = .ok (f, s')) :
    step s = exec f.instr s' := by
  simp [step, hs, hf]

/-! ## The three ways the fetch meets the end of memory -/

/-- No byte is fetched when `pc` is outside memory, and `pc` stays (R116, first row). -/
theorem step_of_pc_outside {s : State} (hs : s.status = .cont) (h : memSize ≤ s.pc.toNat) :
    step s = .fault (.fetchOutOfRange (s.withStatus .fault)) := by
  have hf : fetch s = .error s := by
    rw [fetch_error s (by have := two_le_formLength (s.byteAt s.pc.toNat); omega), if_pos h]
  exact step_of_fetch_error hs hf

/-- An instruction that begins inside memory and ends outside leaves `pc` at the first address outside (R116, rows 2 to 4). -/
theorem step_of_pc_crossing {s : State} {a : Nat} (hs : s.status = .cont) (hpc : s.pc.toNat = a) (ha : a < memSize)
    (hlen : memSize < a + formLength (s.byteAt a)) :
    step s = .fault (.fetchOutOfRange ((s.setPc 0x1000000).withStatus .fault)) := by
  subst hpc
  have hf : fetch s = .error (s.setPc 0x1000000) := by
    rw [fetch_error s hlen, if_neg (Nat.not_le.mpr ha)]
  exact step_of_fetch_error hs hf

/-- An instruction that lies inside memory is decoded from its own bytes and executed with `pc` past it (R110 to R112). -/
theorem step_of_pc_fits {s : State} {n : Nat} (hs : s.status = .cont) (hn : formLength (s.byteAt s.pc.toNat) = n)
    (h : s.pc.toNat + n ≤ memSize) :
    ∃ i, decode (s.bytesAtPc.take n) = .ok (i, []) ∧ step s = exec i (s.setPc (s.pc + BitVec.ofNat 25 n)) := by
  subst hn
  obtain ⟨f, hf, h0, h1, hlong, hshort⟩ := fetch_ok s h
  refine ⟨f.instr, ?_, step_of_fetch_ok hs hf⟩
  cases hl : isLongForm (s.byteAt s.pc.toNat) with
  | true =>
    obtain ⟨h2, h3⟩ := hlong hl
    rw [FetchedBytes.instr, h0, h1, h2, h3, formLength, if_pos hl]
    exact decode_of_isLongForm hl _ _ _ []
  | false =>
    obtain ⟨h2, h3⟩ := hshort hl
    rw [FetchedBytes.instr, h0, h1, h2, h3, formLength, hl]
    exact decode_of_not_isLongForm hl _ []

/-- Settles O8: in rows 1 to 4 of R116 the bytes run out before the instruction ends, in rows 5 and 6 it ends at the last one. -/
theorem fetchAtTheTopOfMemory : Obligations.FetchAtTheTopOfMemory := by
  intro s hs
  refine ⟨step_of_pc_outside hs, fun hpc => ?_, fun hpc hb => ?_, fun hpc hb => ?_, fun hpc hb => ?_, fun hpc hb => ?_⟩
  · have hlen := two_le_formLength (s.byteAt 0xFFFFFF)
    exact step_of_pc_crossing hs (congrArg BitVec.toNat hpc) (by decide) (Nat.add_le_add_left hlen 0xFFFFFF)
  · have hlen : 0x1000000 < 0xFFFFFE + formLength (s.byteAt 0xFFFFFE) := by rw [formLength_eq_four hb]; decide
    exact step_of_pc_crossing hs (congrArg BitVec.toNat hpc) (by decide) hlen
  · have hlen : 0x1000000 < 0xFFFFFD + formLength (s.byteAt 0xFFFFFD) := by rw [formLength_eq_four hb]; decide
    exact step_of_pc_crossing hs (congrArg BitVec.toNat hpc) (by decide) hlen
  · have hlen : formLength (s.byteAt s.pc.toNat) = 2 := by rw [hpc]; exact formLength_eq_two hb
    simpa [State.bytesAtPc, hpc] using step_of_pc_fits hs hlen (by rw [hpc]; decide)
  · have hlen : formLength (s.byteAt s.pc.toNat) = 4 := by rw [hpc]; exact formLength_eq_four hb
    simpa [State.bytesAtPc, hpc] using step_of_pc_fits hs hlen (by rw [hpc]; decide)

end Sys2Proof.Machine

/-! # Proofs: the immediate load (41_immediate_load.md R130 to R133) -/

namespace Sys2Proof.Machine

/-! ## Encoding -/

/-- The two spellings of the first byte `0xF0 + d`: by its number, and as the nibbles the decoder takes apart. -/
theorem nibbles_ldi (d : Reg) : nibbles 15 d = 0xF#4 ++ BitVec.ofFin (w := 4) d := by
  revert d; decide

theorem highNibble_nibbles_ldi (d : Reg) : highNibble (nibbles 15 d) = 0xF#4 := by
  rw [nibbles_ldi, highNibble_ldi]

theorem isLongForm_nibbles_ldi (d : Reg) : isLongForm (nibbles 15 d) = true := by
  rw [isLongForm, highNibble_nibbles_ldi]; rfl

theorem decodeBytes_ldi (d : Reg) (b1 b2 b3 : Byte) :
    decodeBytes (nibbles 15 d) b1 b2 b3 = .ldi d (immediate b1 b2 b3) := by
  rw [decodeBytes, highNibble_nibbles_ldi, nibbles_ldi, lowNibble_ldi]
  rfl

theorem encodes_ldi (d : Reg) (b1 b2 b3 : Byte) :
    Encodes [nibbles 15 d, b1, b2, b3] (.ldi d (immediate b1 b2 b3)) := by
  intro rest
  rw [← decodeBytes_ldi]
  exact decode_of_isLongForm (isLongForm_nibbles_ldi d) b1 b2 b3 rest

/-- The last byte fetched is the highest of the immediate (30_encoding.md R84). -/
theorem toNat_immediate (b1 b2 b3 : Byte) :
    (immediate b1 b2 b3).toNat = b3.toNat * 65536 + b2.toNat * 256 + b1.toNat := loadThree_toNat b3 b2 b1

/-! ## Destinations -/

theorem validated_iff (d : Reg) : validated d = true ↔ d ≤ 9 ∨ d = 14 ∨ d = 15 := by
  simp [validated, or_assoc]

theorem not_validated_iff (d : Reg) : ¬ validated d = true ↔ 10 ≤ d ∧ d ≤ 13 := by
  revert d; decide

/-! ## Execution -/

theorem onlyCell_setVal (s : State) (r : Reg) (v : Word) : OnlyCell r s ((s.setVal r v).withStatus .cont) :=
  ⟨fun _ hq => reg_setReg_ne s (zext25 v) hq, byteAt_setVal s r v, out_setVal s r v, rfl⟩

theorem ChangesNothing.onlyCell {s t : State} (h : ChangesNothing s t) (r : Reg) : OnlyCell r s t := by
  obtain ⟨⟨hregs, hmem, hout⟩, hstatus⟩ := h
  exact ⟨fun q _ => hregs q, hmem, hout, hstatus⟩

theorem OnlyCell.changesNothing {r : Reg} {s t : State} (h : OnlyCell r s t) (hr : t.reg r = s.reg r) :
    ChangesNothing s t := by
  obtain ⟨hregs, hmem, hout, hstatus⟩ := h
  refine ⟨⟨fun q => ?_, hmem, hout⟩, hstatus⟩
  by_cases hq : q = r
  · rw [hq, hr]
  · exact hregs q hq

/-- All that `LDI` does: it goes on, and at most its destination changes, which takes the immediate when it is validated. -/
theorem exec_ldi (d : Reg) (imm : Word) (s : State) :
    ∃ t, exec (.ldi d imm) s = .next t ∧ OnlyCell d s t ∧
      t.reg d = if validated d then zext25 imm else s.reg d := by
  have harm : exec (.ldi d imm) s = execLdi d imm s := rfl
  rw [harm, execLdi]
  split
  case isTrue => exact ⟨_, rfl, onlyCell_setVal s d imm, reg_setReg_same s d (zext25 imm)⟩
  case isFalse => exact ⟨_, rfl, (changesNothing_withStatus s).onlyCell d, reg_withStatus s .cont d⟩

/-- Settles O14: the encoding, and the two outcomes of `exec_ldi`. -/
theorem ldiWritesValidatedDestinationsOnly : Obligations.LdiWritesValidatedDestinationsOnly := by
  refine ⟨fun d b1 b2 b3 => ⟨_, encodes_ldi d b1 b2 b3, toNat_immediate b1 b2 b3⟩, fun d imm s hd => ?_,
    fun d imm s hd => ?_⟩
  · obtain ⟨t, ht, honly, hcell⟩ := exec_ldi d imm s
    rw [if_pos ((validated_iff d).mpr hd)] at hcell
    exact ⟨t, ht, hcell.trans (BitVec.ofNat_toNat 25 imm).symm, honly⟩
  · obtain ⟨t, ht, honly, hcell⟩ := exec_ldi d imm s
    rw [if_neg ((not_validated_iff d).mpr hd)] at hcell
    exact ⟨t, ht, honly.changesNothing hcell⟩

/-! ## The step -/

/-- The immediate in the three bytes after the one at `pc`. -/
def State.immediateAtPc (s : State) : Word :=
  immediate (s.byteAt (s.pc.toNat + 1)) (s.byteAt (s.pc.toNat + 2)) (s.byteAt (s.pc.toNat + 3))

theorem decode_bytesAtPc_ldi {s : State} {d : Reg} (hb : s.byteAt s.pc.toNat = nibbles 15 d) :
    decode s.bytesAtPc = .ok (.ldi d s.immediateAtPc, []) := by
  rw [State.bytesAtPc, hb]
  exact encodes_ldi d _ _ _ []

/-- The byte `0xF0 + d` at `pc` makes the step the `LDI` of the three bytes after it, executed with `pc` past all four. -/
theorem step_ldi {s : State} {d : Reg} (hs : s.status = .cont) (hfits : s.pc.toNat + 4 ≤ memSize)
    (hb : s.byteAt s.pc.toNat = nibbles 15 d) :
    step s = exec (.ldi d s.immediateAtPc) (s.setPc (s.pc + 4)) := by
  have hlen : formLength (s.byteAt s.pc.toNat) = 4 := by
    rw [hb, formLength, if_pos (isLongForm_nibbles_ldi d)]
  obtain ⟨i, hdecode, hstep⟩ := step_of_pc_fits hs hlen hfits
  obtain rfl : i = .ldi d s.immediateAtPc := by
    simpa using hdecode.symm.trans (decode_bytesAtPc_ldi hb)
  exact hstep

/-- Settles O10: `exec_ldi` from the state the fetch leaves, which differs from the old one in `pc` alone. -/
theorem ldiStepSetsCellAndAdvancesByFour : Obligations.LdiStepSetsCellAndAdvancesByFour := by
  intro s d hs hfits hb
  obtain ⟨t, ht, ⟨hregs, hmem, hout, hstatus⟩, hcell⟩ := exec_ldi d s.immediateAtPc (s.setPc (s.pc + 4))
  have hfetched : ∀ q, q ≠ pcReg → (s.setPc (s.pc + 4)).reg q = s.reg q := fun _ hq => reg_setReg_ne s _ hq
  refine ⟨t, (step_ldi hs hfits hb).trans ht, hstatus, hmem, hout, ?others, ?written, ?ignored, ?advance⟩
  case others =>
    intro q hqd hqpc
    rw [hregs q hqd, hfetched q hqpc]
  case written =>
    intro hd
    rw [hcell, if_pos ((validated_iff d).mpr hd), toNat_zext25]
    exact toNat_immediate _ _ _
  case ignored =>
    intro hd
    have hdpc : d ≠ pcReg := by rintro rfl; exact absurd hd (by decide)
    rw [hcell, if_neg ((not_validated_iff d).mpr hd), hfetched d hdpc]
  case advance =>
    intro hd
    have hpc : t.pc = s.pc + 4 := (hregs pcReg (Ne.symm hd)).trans (pc_setPc s _)
    rw [hpc]
    exact toNat_pc_add hfits

end Sys2Proof.Machine

/-! # Proofs: the transfers between registers and memory (42_transfer.md R140 to R142) -/

namespace Sys2Proof.Machine

/-! ## Encoding -/

/-- The byte of a register pair, by its number and as the nibbles the decoder takes apart. -/
theorem nibbles_eq_regPair (a b : Reg) : nibbles a b = regPair a b := by
  revert a b; decide

/-- The first bytes of class `0x1`: `sel` in bits 3 and 2, and the two ignored bits below it. -/
theorem transfer_firstByte (sel x : Fin 4) :
    highNibble (BitVec.ofNat 8 (0x10 + 4 * sel.val + x.val)) = 0x1#4 ∧
      (BitVec.ofNat 8 (0x10 + 4 * sel.val + x.val)).extractLsb' 2 2 = BitVec.ofFin (w := 2) sel := by
  revert sel x; decide

/-- The instructions of class `0x1` by `sel`, for the register pair `{A, B}`. -/
def transferInstr (a b : Reg) : Fin 4 → Instr
  | 0 => .ld a b
  | 1 => .st a b
  | 2 => .mov a b
  | 3 => .rsv1

theorem decodeTransfer_nibbles (sel x : Fin 4) (a b : Reg) :
    decodeTransfer (BitVec.ofNat 8 (0x10 + 4 * sel.val + x.val)) (nibbles a b) = transferInstr a b sel := by
  obtain ⟨-, hsel⟩ := transfer_firstByte sel x
  rw [decodeTransfer, hsel, nibbles_eq_regPair, fieldA_regPair, fieldB_regPair]
  fin_cases sel <;> rfl

theorem encodes_transfer (sel x : Fin 4) (a b : Reg) :
    Encodes [BitVec.ofNat 8 (0x10 + 4 * sel.val + x.val), nibbles a b] (transferInstr a b sel) := by
  obtain ⟨hclass, -⟩ := transfer_firstByte sel x
  intro rest
  rw [← decodeTransfer_nibbles sel x]
  generalize BitVec.ofNat 8 (0x10 + 4 * sel.val + x.val) = b0 at hclass ⊢
  have hshort : isLongForm b0 = false := by rw [isLongForm, hclass]; rfl
  have hdecode : decodeBytes b0 (nibbles a b) 0 0 = decodeTransfer b0 (nibbles a b) := by
    rw [decodeBytes, hclass]; rfl
  rw [← hdecode]
  exact decode_of_not_isLongForm hshort _ rest

theorem encodes_ld (x : Fin 4) (a b : Reg) : Encodes [BitVec.ofNat 8 (0x10 + x.val), nibbles a b] (.ld a b) :=
  encodes_transfer 0 x a b

theorem encodes_st (x : Fin 4) (a b : Reg) : Encodes [BitVec.ofNat 8 (0x14 + x.val), nibbles a b] (.st a b) :=
  encodes_transfer 1 x a b

theorem encodes_mov (x : Fin 4) (a b : Reg) : Encodes [BitVec.ofNat 8 (0x18 + x.val), nibbles a b] (.mov a b) :=
  encodes_transfer 2 x a b

/-! ## One cell written -/

theorem writesCell_setReg (s : State) (r : Reg) (v : RawCell) :
    WritesCell r v s ((s.setReg r v).withStatus .cont) :=
  ⟨reg_setReg_same s r v, fun _ hq => reg_setReg_ne s v hq, byteAt_setReg s r v, out_setReg s r v, rfl⟩

/-! ## `MOV` -/

theorem exec_mov (a b : Reg) (s : State) : exec (.mov a b) s = returnContinue (s.setReg b (s.reg a)) := rfl

/-- Settles O17: the encoding, and `exec_mov`, which sets one cell to the raw cell read. -/
theorem movCopiesTheRawCell : Obligations.MovCopiesTheRawCell :=
  ⟨encodes_mov, fun a b s => ⟨_, exec_mov a b s, writesCell_setReg s b (s.reg a)⟩⟩

/-! ## `LD` -/

/-- The three bytes from `a` on, the first the most significant. -/
def State.threeBytesAt (s : State) (a : Nat) : Word := s.byteAt a ++ s.byteAt (a + 1) ++ s.byteAt (a + 2)

theorem zext25_threeBytesAt (s : State) (a : Nat) :
    zext25 (s.threeBytesAt a) = BitVec.ofNat 25
      ((s.byteAt a).toNat * 65536 + (s.byteAt (a + 1)).toNat * 256 + (s.byteAt (a + 2)).toNat) := by
  rw [← loadThree_toNat, BitVec.ofNat_toNat]
  rfl

/-- All that `LD` does: the cell takes the three bytes at the base when the last of them is inside memory, and otherwise it
faults from the state it began in. -/
theorem exec_ld (a b : Reg) (s : State) :
    exec (.ld a b) s =
      if s.loadAddress a ≤ 0xFFFFFD then returnContinue (s.setVal b (s.threeBytesAt (s.loadAddress a)))
      else raiseFault .loadOutOfRange s := by
  have harm : exec (.ld a b) s = execLd a b s := rfl
  have hbound : s.loadAddress a + 2 < memSize ↔ s.loadAddress a ≤ 0xFFFFFD := by rw [memSize_eq]; omega
  rw [harm, execLd, loadThree_eq, if_congr hbound rfl rfl]
  by_cases hin : s.loadAddress a ≤ 0xFFFFFD
  · rw [if_pos hin, if_pos hin]; rfl
  · rw [if_neg hin, if_neg hin]

theorem sameMachine_withStatus (s : State) (st : Status) : SameMachine s (s.withStatus st) :=
  ⟨reg_withStatus s st, byteAt_withStatus s st, out_withStatus s st⟩

/-- Settles O15: the encoding, the masked base, and the two outcomes of `exec_ld`. -/
theorem ldLoadsThreeBytesHighFirst : Obligations.LdLoadsThreeBytesHighFirst := by
  refine ⟨encodes_ld, fun a s => toNat_val s a, fun a b s hin => ?_, fun a b s hout => ?_⟩
  · refine ⟨_, (exec_ld a b s).trans (if_pos hin), ?_⟩
    rw [← zext25_threeBytesAt]
    exact writesCell_setReg s b _
  · exact ⟨_, (exec_ld a b s).trans (if_neg (by omega)), sameMachine_withStatus s .fault, rfl⟩

/-! ## `ST` -/

/-- Of the three addresses from `a` on those inside memory read `0xFF`, and every other byte, the registers and the output are
as before: what an `ST` leaves, whether it goes on or faults. -/
def StoresFFFrom (a : Nat) (s t : State) : Prop :=
  SameRegs s t ∧ SameOutput s t ∧
    ∀ q, t.byteAt q = if a ≤ q ∧ q < a + 3 ∧ q < 0x1000000 then 0xFF else s.byteAt q

/-- The bytes an `ST` writes, read at an offset. -/
theorem getD_storedBytes (n : Nat) (d : Byte) :
    [storedByte, storedByte, storedByte].getD n d = if n < 3 then 0xFF else d := by
  have hreplicate : [storedByte, storedByte, storedByte] = List.replicate 3 storedByte := rfl
  rw [hreplicate, List.getD_eq_getElem?_getD, List.getElem?_replicate]
  split <;> rfl

theorem storeBytes_storedBytes (s : State) (a : Nat) :
    ∃ t, storeBytes s a [storedByte, storedByte, storedByte] = (if a ≤ 0xFFFFFD then .ok t else .error t) ∧
      StoresFFFrom a s t := by
  obtain ⟨t, ht, hregs, hout, -, hbytes⟩ :=
    storeBytes_spec s a [storedByte, storedByte, storedByte] (by decide)
  have hbound : (a + 3 ≤ memSize ∨ [storedByte, storedByte, storedByte] = []) ↔ a ≤ 0xFFFFFD := by
    simp [memSize_eq]
  refine ⟨t, ht.trans (if_congr hbound rfl rfl), hregs, hout, fun q => ?_⟩
  rw [hbytes q, getD_storedBytes, memSize_eq, ← ite_and]
  exact if_congr (by omega) rfl rfl

/-- All that `ST` does: it writes its bytes inside memory, and faults when not all three are. -/
theorem exec_st (a b : Reg) (s : State) :
    ∃ t, StoresFFFrom (s.storeAddress b) s t ∧
      exec (.st a b) s =
        if s.storeAddress b ≤ 0xFFFFFD then returnContinue t else raiseFault .storeOutOfRange t := by
  obtain ⟨t, hstore, hwritten⟩ := storeBytes_storedBytes s (s.storeAddress b)
  have harm : exec (.st a b) s = execSt a b s := rfl
  refine ⟨t, hwritten, ?_⟩
  rw [harm, execSt, hstore]
  by_cases hin : s.storeAddress b ≤ 0xFFFFFD
  · rw [if_pos hin, if_pos hin]
  · rw [if_neg hin, if_neg hin]

/-- Settles O16: the encoding, the raw address, and the two outcomes of `exec_st`. -/
theorem stWritesThreeBytesOfFF : Obligations.StWritesThreeBytesOfFF := by
  refine ⟨encodes_st, fun _ _ => rfl, fun a b s hin => ?_, fun a b s hout => ?_⟩
  · obtain ⟨t, ⟨hregs, hsame, hbytes⟩, hexec⟩ := exec_st a b s
    rw [if_pos hin] at hexec
    exact ⟨_, hexec, hregs, hsame, rfl, fun q hq => (hbytes q).trans (if_pos (by omega)),
      fun q hq => (hbytes q).trans (if_neg (by omega))⟩
  · obtain ⟨t, ⟨hregs, hsame, hbytes⟩, hexec⟩ := exec_st a b s
    rw [if_neg (by omega)] at hexec
    exact ⟨_, hexec, hregs, hsame, rfl, fun q hq => (hbytes q).trans (if_pos (by omega)),
      fun q hq => (hbytes q).trans (if_neg (by omega))⟩

end Sys2Proof.Machine

/-! # Proofs: the compare and the conditional jumps after it (43_compare.md R160, R161) -/

namespace Sys2Proof.Machine

/-! ## Encoding -/

/-- Bytes of the two-byte form are read as the instruction they decode to (30_encoding.md R80). -/
theorem encodes_of_decodeBytes {b0 b1 : Byte} {i : Instr} (hshort : isLongForm b0 = false)
    (hdecode : decodeBytes b0 b1 0 0 = i) : Encodes [b0, b1] i := by
  intro rest
  rw [← hdecode]
  exact decode_of_not_isLongForm hshort b1 rest

theorem highNibble_nibbles (a b : Fin 16) : highNibble (nibbles a b) = BitVec.ofFin (w := 4) a := by
  revert a b; decide

/-- The class alone selects `CMP`: `p2` is ignored (43_compare.md R160). -/
theorem decodeBytes_cmp (p2 : Fin 16) (a b : Reg) : decodeBytes (nibbles 2 p2) (nibbles a b) 0 0 = .cmp a b :=
  calc decodeBytes (nibbles 2 p2) (nibbles a b) 0 0
    _ = .cmp (fieldA (nibbles a b)) (fieldB (nibbles a b)) := by rw [decodeBytes, highNibble_nibbles]; rfl
    _ = .cmp a b := by rw [nibbles_eq_regPair, fieldA_regPair, fieldB_regPair]

theorem encodes_cmp (p2 : Fin 16) (a b : Reg) : Encodes [nibbles 2 p2, nibbles a b] (.cmp a b) := by
  have hshort : isLongForm (nibbles 2 p2) = false := by rw [isLongForm, highNibble_nibbles]; rfl
  exact encodes_of_decodeBytes hshort (decodeBytes_cmp p2 a b)

/-! ## `CMP` -/

/-- The value `CMP` compares: 24 bits of the cell, read after the clear of the flags cell (43_compare.md R160). -/
def State.compareOperand (s : State) (r : Reg) : Nat :=
  if r = flagsReg then 0 else (s.reg r).toNat % 0x1000000

theorem toNat_val_clearedFlags (s : State) (r : Reg) :
    ((s.setReg flagsReg 0).val r).toNat = s.compareOperand r := by
  rw [toNat_val, reg_setReg, State.compareOperand]
  split <;> rfl

theorem compareFlags_eq (x y : Word) :
    compareFlags x y = if x.toNat = y.toNat then 1 else if y.toNat < x.toNat then 2 else 4 := by
  rw [compareFlags, if_congr BitVec.toNat_inj.symm rfl rfl]
  rfl

/-- What `CMP` leaves in the flags cell. -/
def State.compareResult (s : State) (a b : Reg) : RawCell :=
  if s.compareOperand a = s.compareOperand b then 1 else if s.compareOperand b < s.compareOperand a then 2 else 4

/-- All that `CMP` does: the clear leaves no other trace than the operands it changes. -/
theorem exec_cmp (a b : Reg) (s : State) :
    exec (.cmp a b) s = returnContinue (s.setReg flagsReg (s.compareResult a b)) := by
  have harm : exec (.cmp a b) s = execCmp a b s := rfl
  rw [harm, execCmp, setReg_setReg, compareFlags_eq, toNat_val_clearedFlags, toNat_val_clearedFlags,
    State.compareResult]

/-- Settles O18: the encoding, and `exec_cmp`, which sets one cell. -/
theorem cmpSetsExactlyOneFlag : Obligations.CmpSetsExactlyOneFlag :=
  ⟨encodes_cmp, fun a b s => ⟨_, exec_cmp a b s, writesCell_setReg s flagsReg (s.compareResult a b)⟩⟩

theorem flags_of_exec_cmp {a b : Reg} {s t : State} (h : exec (.cmp a b) s = .next t) :
    t.reg flagsReg = s.compareResult a b := by
  rw [exec_cmp, returnContinue_eq_next] at h
  rw [h, reg_withStatus, reg_setReg_same]

/-! ## The conditional jumps -/

/-- In the state `t` the jump `j` is taken through every register, or through none. -/
def JumpOutcome (taken : Bool) (j : Reg → Instr) (t : State) : Prop :=
  match taken with
  | true => ∀ r, ∃ u, exec (j r) t = .next u ∧ WritesCell pcReg (t.reg r) t u
  | false => ∀ r, ∃ u, exec (j r) t = .next u ∧ ChangesNothing t u

theorem jumpOutcome_of_exec {taken : Bool} {j : Reg → Instr} {t : State}
    (h : ∀ r, exec (j r) t = jumpIf taken r t) : JumpOutcome taken j t := by
  cases taken with
  | true => exact fun r => ⟨_, h r, writesCell_setReg t pcReg (t.reg r)⟩
  | false => exact fun r => ⟨_, h r, changesNothing_withStatus t⟩

/-! Each condition is on the whole flags cell (44_jump.md R171 to R176, R179). -/

theorem jumpOutcome_jeq (t : State) : JumpOutcome (t.reg flagsReg == 1) .jeq t := jumpOutcome_of_exec fun _ => rfl
theorem jumpOutcome_jgt (t : State) : JumpOutcome (t.reg flagsReg == 2) .jgt t := jumpOutcome_of_exec fun _ => rfl
theorem jumpOutcome_jf3 (t : State) : JumpOutcome (t.reg flagsReg == 3) .jf3 t := jumpOutcome_of_exec fun _ => rfl
theorem jumpOutcome_jlt (t : State) : JumpOutcome (t.reg flagsReg == 4) .jlt t := jumpOutcome_of_exec fun _ => rfl
theorem jumpOutcome_jf5 (t : State) : JumpOutcome (t.reg flagsReg == 5) .jf5 t := jumpOutcome_of_exec fun _ => rfl
theorem jumpOutcome_jne (t : State) : JumpOutcome (!(t.reg flagsReg == 1)) .jne t := jumpOutcome_of_exec fun _ => rfl

/-- The row of the outcome table for the value `v` of the flags cell, in the table's order of the jumps. -/
theorem jumpOutcomes_of_flags {t : State} {v : RawCell} (h : t.reg flagsReg = v) :
    JumpOutcome (v == 1) .jeq t ∧ JumpOutcome (v == 2) .jgt t ∧ JumpOutcome (v == 4) .jlt t ∧
      JumpOutcome (!(v == 1)) .jne t ∧ JumpOutcome (v == 3) .jf3 t ∧ JumpOutcome (v == 5) .jf5 t := by
  subst h
  exact ⟨jumpOutcome_jeq t, jumpOutcome_jgt t, jumpOutcome_jlt t, jumpOutcome_jne t, jumpOutcome_jf3 t,
    jumpOutcome_jf5 t⟩

/-- Settles O29: the order of the operands gives the flags cell, and its value gives the row of the table. -/
theorem compareOutcomeTable : Obligations.CompareOutcomeTable := by
  refine ⟨fun a b s t h => ⟨fun heq => ?equal, fun hgt => ?greater, fun hlt => ?less⟩,
    fun t hflags => jumpOutcomes_of_flags hflags⟩
  case equal =>
    have hflags : t.reg flagsReg = 1 := (flags_of_exec_cmp h).trans (if_pos heq)
    exact ⟨hflags, jumpOutcomes_of_flags hflags⟩
  case greater =>
    have hflags : t.reg flagsReg = 2 :=
      (flags_of_exec_cmp h).trans ((if_neg (Nat.ne_of_gt hgt)).trans (if_pos hgt))
    exact ⟨hflags, jumpOutcomes_of_flags hflags⟩
  case less =>
    have hflags : t.reg flagsReg = 4 :=
      (flags_of_exec_cmp h).trans ((if_neg (Nat.ne_of_lt hlt)).trans (if_neg (Nat.lt_asymm hlt)))
    exact ⟨hflags, jumpOutcomes_of_flags hflags⟩

end Sys2Proof.Machine

/-! # Proofs: the jumps (44_jump.md R170 to R176) -/

namespace Sys2Proof.Machine

/-! ## Encoding -/

theorem fieldA_nibbles (a : Reg) (x : Fin 16) : fieldA (nibbles a x) = a := by
  rw [nibbles_eq_regPair, fieldA_regPair]

theorem decodeBytes_jump (p2 : Fin 16) (b1 : Byte) :
    decodeBytes (nibbles 3 p2) b1 0 0 = decodeJump (nibbles 3 p2) b1 := by
  rw [decodeBytes, highNibble_nibbles]; rfl

/-- In class `0x3` an arm of the decoder that reads register `A` alone gives the encoding of its jump, with any low nibble in
the second byte. -/
theorem encodes_jump (p2 : Fin 16) {j : Reg → Instr} (harm : ∀ b1, decodeJump (nibbles 3 p2) b1 = j (fieldA b1))
    (a : Reg) (x : Fin 16) : Encodes [nibbles 3 p2, nibbles a x] (j a) := by
  have hshort : isLongForm (nibbles 3 p2) = false := by rw [isLongForm, highNibble_nibbles]; rfl
  have hdecode : decodeBytes (nibbles 3 p2) (nibbles a x) 0 0 = j a := by
    rw [decodeBytes_jump, harm, fieldA_nibbles]
  exact encodes_of_decodeBytes hshort hdecode

/-! ## The unconditional jump -/

theorem jumpOutcome_jmp (t : State) : JumpOutcome true .jmp t := jumpOutcome_of_exec fun _ => rfl

/-- Settles O19: the encoding, and the outcome of a jump that is always taken. -/
theorem jmpCopiesTheTargetToPc : Obligations.JmpCopiesTheTargetToPc :=
  ⟨encodes_jump 0 fun _ => rfl, fun a s => jumpOutcome_jmp s a⟩

/-! ## The conditional jumps, their condition on the number in the flags cell -/

/-- The whole cell equals a constant when their numbers are equal (44_jump.md R179). -/
theorem rawCell_beq_iff_toNat_eq (c v : RawCell) : (c == v) = true ↔ c.toNat = v.toNat :=
  beq_iff_eq.trans BitVec.toNat_inj.symm

/-- What the jump does, by the condition `p` it is taken under. -/
theorem exec_of_jumpOutcome {taken : Bool} {p : Prop} [Decidable p] {j : Reg → Instr} {t : State}
    (hp : taken = true ↔ p) (h : JumpOutcome taken j t) (r : Reg) :
    ∃ u, exec (j r) t = .next u ∧ if p then WritesCell pcReg (t.reg r) t u else ChangesNothing t u := by
  cases taken with
  | true => simpa only [if_pos (hp.mp rfl)] using h r
  | false => simpa only [if_neg (mt hp.mpr Bool.false_ne_true)] using h r

theorem exec_of_jumpOutcome_beq {v : RawCell} {j : Reg → Instr} {t : State}
    (h : JumpOutcome (t.reg flagsReg == v) j t) (r : Reg) :
    ∃ u, exec (j r) t = .next u ∧
      if (t.reg flagsReg).toNat = v.toNat then WritesCell pcReg (t.reg r) t u else ChangesNothing t u :=
  exec_of_jumpOutcome (rawCell_beq_iff_toNat_eq _ v) h r

theorem exec_jne (r : Reg) (t : State) :
    ∃ u, exec (.jne r) t = .next u ∧
      if (t.reg flagsReg).toNat = 1 then ChangesNothing t u else WritesCell pcReg (t.reg r) t u := by
  have htaken : (!(t.reg flagsReg == 1)) = true ↔ ¬ (t.reg flagsReg).toNat = 1 := by
    rw [Bool.not_eq_true', ← Bool.not_eq_true]
    exact not_congr (rawCell_beq_iff_toNat_eq _ 1)
  simpa only [ite_not] using exec_of_jumpOutcome htaken (jumpOutcome_jne t) r

/-- Settles O20: the five encodings, and the outcome of each jump. -/
theorem equalityJumpsCompareTheWholeFlagsCell : Obligations.EqualityJumpsCompareTheWholeFlagsCell := by
  refine ⟨fun a x => ⟨?_, ?_, ?_, ?_, ?_⟩, fun a s => ⟨?_, ?_, ?_, ?_, ?_⟩⟩
  · exact encodes_jump 1 (fun _ => rfl) a x
  · exact encodes_jump 2 (fun _ => rfl) a x
  · exact encodes_jump 3 (fun _ => rfl) a x
  · exact encodes_jump 4 (fun _ => rfl) a x
  · exact encodes_jump 5 (fun _ => rfl) a x
  · exact exec_of_jumpOutcome_beq (jumpOutcome_jeq s) a
  · exact exec_of_jumpOutcome_beq (jumpOutcome_jgt s) a
  · exact exec_of_jumpOutcome_beq (jumpOutcome_jf3 s) a
  · exact exec_of_jumpOutcome_beq (jumpOutcome_jlt s) a
  · exact exec_of_jumpOutcome_beq (jumpOutcome_jf5 s) a

/-- Settles O21: the encoding, and the outcome of the one jump with the negated condition. -/
theorem jneJumpsUnlessTheFlagsCellIsOne : Obligations.JneJumpsUnlessTheFlagsCellIsOne :=
  ⟨encodes_jump 15 fun _ => rfl, exec_jne⟩

end Sys2Proof.Machine

/-! # Proofs: the arithmetic/logic unit (45_alu.md R190 to R207) -/

namespace Sys2Proof.Machine

/-! ## Encoding -/

theorem fieldB_nibbles (x : Fin 16) (b : Reg) : fieldB (nibbles x b) = b := by
  rw [nibbles_eq_regPair, fieldB_regPair]

theorem decodeBytes_alu (p2 : Fin 16) (b1 : Byte) :
    decodeBytes (nibbles 4 p2) b1 0 0 = decodeAlu (nibbles 4 p2) b1 := by
  rw [decodeBytes, highNibble_nibbles]; rfl

/-- In class `0x4` an arm of the decoder gives the encoding of its instruction. An arm that ignores register `B` is one for
an `op` that does. -/
theorem encodes_alu (p2 : Fin 16) {op : Reg → Reg → Instr}
    (harm : ∀ b1, decodeAlu (nibbles 4 p2) b1 = op (fieldA b1) (fieldB b1)) (a b : Reg) :
    Encodes [nibbles 4 p2, nibbles a b] (op a b) := by
  have hshort : isLongForm (nibbles 4 p2) = false := by rw [isLongForm, highNibble_nibbles]; rfl
  have hdecode : decodeBytes (nibbles 4 p2) (nibbles a b) 0 0 = op a b := by
    rw [decodeBytes_alu, harm, fieldA_nibbles, fieldB_nibbles]
  exact encodes_of_decodeBytes hshort hdecode

/-! ## What each instruction writes: the operation on the numbers, or the bits, of the whole cells -/

section Exec

variable (a b : Reg) (s : State)

theorem exec_add : exec (.add a b) s = aluWrite a (aluAdd (s.reg a).toNat (s.reg b).toNat) s := rfl
theorem exec_sub : exec (.sub a b) s = aluWrite a (aluSub (s.reg a).toNat (s.reg b).toNat) s := rfl
theorem exec_mul : exec (.mul a b) s = aluWrite a (aluMul (s.reg a).toNat (s.reg b).toNat) s := rfl
theorem exec_div : exec (.div a b) s = aluDivide aluDiv a b s := rfl
theorem exec_mod : exec (.mod a b) s = aluDivide aluMod a b s := rfl
theorem exec_shl : exec (.shl a b) s = aluWrite a (aluShl (s.reg a).toNat (s.reg b).toNat) s := rfl
theorem exec_shr : exec (.shr a b) s = aluWrite a (aluShr (s.reg a).toNat (s.reg b).toNat) s := rfl
theorem exec_or : exec (.or a b) s = aluWrite a (aluOr (s.reg a) (s.reg b)) s := rfl
theorem exec_and : exec (.and a b) s = aluWrite a (aluAnd (s.reg a) (s.reg b)) s := rfl
theorem exec_xor : exec (.xor a b) s = aluWrite a (aluXor (s.reg a) (s.reg b)) s := rfl
theorem exec_not : exec (.not a) s = aluWrite a (aluNot (s.reg a)) s := rfl
theorem exec_inc : exec (.inc a) s = aluWrite a (aluInc (s.reg a).toNat) s := rfl
theorem exec_dec : exec (.dec a) s = aluWrite a (aluDec (s.reg a).toNat) s := rfl

end Exec

/-! ## The write-back -/

/-- A result written by the unit is the value of one cell, and nothing else changes (R190, R193). -/
theorem writesCell_of_aluWrite {r : Result} {a : Reg} {w : Word} {s : State} (h : r = aluWrite a w s) :
    ∃ t, r = .next t ∧ WritesCell a (zext25 w) s t :=
  ⟨_, h, writesCell_setReg s a (zext25 w)⟩

theorem zext25_eq_ofNat {w : Word} {n : Nat} (h : w.toNat = n) : zext25 w = BitVec.ofNat 25 n := by
  rw [← h, BitVec.ofNat_toNat]; rfl

theorem zext25_eq_ofInt {w : Word} {e : Int} (h : (w.toNat : Int) = e) : zext25 w = BitVec.ofInt 25 e := by
  rw [← h, BitVec.ofInt_natCast]
  exact zext25_eq_ofNat rfl

/-- The cell takes the result as a natural number, which the law of the operation gives. -/
theorem writes_ofNat_of_aluWrite {r : Result} {a : Reg} {w : Word} {s : State} {n : Nat} (h : r = aluWrite a w s)
    (hlaw : w.toNat = n) : ∃ t, r = .next t ∧ WritesCell a (BitVec.ofNat 25 n) s t :=
  zext25_eq_ofNat hlaw ▸ writesCell_of_aluWrite h

/-- The same for an operation whose exact result may be negative. -/
theorem writes_ofInt_of_aluWrite {r : Result} {a : Reg} {w : Word} {s : State} {e : Int} (h : r = aluWrite a w s)
    (hlaw : (w.toNat : Int) = e) : ∃ t, r = .next t ∧ WritesCell a (BitVec.ofInt 25 e) s t :=
  zext25_eq_ofInt hlaw ▸ writesCell_of_aluWrite h

/-! ## `SHL`, `SHR` -/

/-- No bit of the operand is left below bit 24 (R192). -/
theorem aluShl_eq_zero (a : Nat) {b : Nat} (hb : 24 ≤ b) : aluShl a b = 0 := if_neg (by omega)

/-- No bit of a cell is left (R192). -/
theorem aluShr_eq_zero (a : Nat) {b : Nat} (hb : 25 ≤ b) : aluShr a b = 0 := if_neg (by omega)

/-- The amount 24 leaves the guard bit alone of a cell, so nothing of a 24-bit value. -/
theorem aluShr_24_eq_zero {a : Nat} (ha : a < 2 ^ 24) : aluShr a 24 = 0 := by
  apply BitVec.eq_of_toNat_eq
  rw [aluShr_exact a 24 (by omega), Nat.div_eq_of_lt ha]
  rfl

/-- Settles O24: the encodings, the exact law of each shift for every amount a cell can hold, and the amounts that leave
nothing. -/
theorem shiftsTakeTheWholeCellAsAmount : Obligations.ShiftsTakeTheWholeCellAsAmount := by
  refine ⟨fun a b => ⟨encodes_alu 5 (fun _ => rfl) a b, encodes_alu 6 (fun _ => rfl) a b⟩,
    fun a b s => ⟨?shl, ?shr⟩⟩
  case shl =>
    obtain ⟨t, ht, hcell, honly⟩ := writesCell_of_aluWrite (exec_shl a b s)
    refine ⟨t, ht, ⟨hcell.trans (zext25_eq_ofNat (aluShl_exact _ _)), honly⟩, fun hb => ?_⟩
    rw [hcell, aluShl_eq_zero _ hb]; rfl
  case shr =>
    obtain ⟨t, ht, hcell, honly⟩ := writesCell_of_aluWrite (exec_shr a b s)
    refine ⟨t, ht, ⟨hcell.trans (zext25_eq_ofNat (aluShr_exact _ _ (s.reg a).isLt)), honly⟩,
      fun hb => ?_, fun hb ha => ?_⟩
    · rw [hcell, aluShr_eq_zero _ hb]; rfl
    · rw [hcell, hb, aluShr_24_eq_zero ha]; rfl

/-! ## `ADD`, `SUB`, `MUL`, `INC`, `DEC` -/

/-- Settles O22: the encodings, and the exact law of each operation. -/
theorem arithmeticIsExactModuloTwoTo24 : Obligations.ArithmeticIsExactModuloTwoTo24 := by
  refine ⟨fun a b => ⟨?_, ?_, ?_, ?_, ?_⟩, fun a b s => ⟨?_, ?_, ?_, ?_, ?_⟩⟩
  · exact encodes_alu 0 (fun _ => rfl) a b
  · exact encodes_alu 1 (fun _ => rfl) a b
  · exact encodes_alu 2 (fun _ => rfl) a b
  · exact encodes_alu 11 (op := fun a _ => .inc a) (fun _ => rfl) a b
  · exact encodes_alu 12 (op := fun a _ => .dec a) (fun _ => rfl) a b
  · exact writes_ofNat_of_aluWrite (exec_add a b s) (aluAdd_exact _ _)
  · exact writes_ofInt_of_aluWrite (exec_sub a b s) (aluSub_exact _ _)
  · exact writes_ofNat_of_aluWrite (exec_mul a b s) (aluMul_exact _ _)
  · exact writes_ofNat_of_aluWrite (exec_inc a s) (aluInc_exact _)
  · exact writes_ofInt_of_aluWrite (exec_dec a s) (aluDec_exact _)

/-! ## `DIV`, `MOD` -/

theorem aluDivide_of_ne_zero (op : Nat → Nat → Word) (a : Reg) {b : Reg} {s : State} (hb : s.reg b ≠ 0) :
    aluDivide op a b s = aluWrite a (op (s.reg a).toNat (s.reg b).toNat) s := if_neg hb

theorem aluDivide_of_eq_zero (op : Nat → Nat → Word) (a : Reg) {b : Reg} {s : State} (hb : s.reg b = 0) :
    aluDivide op a b s = raiseFault .divideByZero s := if_pos hb

/-- A zero divisor faults, and the state left behind is the one before it (R194). -/
theorem faults_of_divisor_eq_zero {r : Result} {op : Nat → Nat → Word} {a b : Reg} {s : State}
    (h : r = aluDivide op a b s) (hb : s.reg b = 0) :
    ∃ u, r = .fault (.divideByZero u) ∧ SameMachine s u ∧ u.status = .fault :=
  ⟨_, h.trans (aluDivide_of_eq_zero op a hb), sameMachine_withStatus s .fault, status_withStatus s .fault⟩

/-- Settles O23: the encodings, and the two outcomes of a division by the divisor cell. -/
theorem divAndModOrDivideByZero : Obligations.DivAndModOrDivideByZero := by
  refine ⟨fun a b => ⟨encodes_alu 3 (fun _ => rfl) a b, encodes_alu 4 (fun _ => rfl) a b⟩,
    fun a b s hb => ⟨?quotient, ?remainder⟩, fun a b s hb => ⟨?divFault, ?modFault⟩⟩
  case quotient =>
    exact writes_ofNat_of_aluWrite ((exec_div a b s).trans (aluDivide_of_ne_zero aluDiv a hb)) (aluDiv_exact _ _)
  case remainder =>
    exact writes_ofNat_of_aluWrite ((exec_mod a b s).trans (aluDivide_of_ne_zero aluMod a hb)) (aluMod_exact _ _)
  case divFault => exact faults_of_divisor_eq_zero (exec_div a b s) hb
  case modFault => exact faults_of_divisor_eq_zero (exec_mod a b s) hb

/-! ## `OR`, `AND`, `XOR`, `NOT` -/

theorem getLsbD_zext25 (w : Word) (i : Nat) : (zext25 w).getLsbD i = w.getLsbD i :=
  congrArg (Nat.testBit · i) (toNat_zext25 w)

/-- The guard bit of a stored result is 0 (R190). -/
theorem guardBit_zext25 (w : Word) : (zext25 w).getLsbD 24 = false :=
  (getLsbD_zext25 w 24).trans (BitVec.getLsbD_of_ge w 24 (Nat.le_refl 24))

section Bits

variable (x y : RawCell) {i : Nat}

theorem getLsbD_aluOr (hi : i < 24) : (aluOr x y).getLsbD i = (x.getLsbD i || y.getLsbD i) := by
  rw [aluOr, BitVec.getLsbD_setWidth, BitVec.getLsbD_or, decide_eq_true hi, Bool.true_and]

theorem getLsbD_aluAnd (hi : i < 24) : (aluAnd x y).getLsbD i = (x.getLsbD i && y.getLsbD i) := by
  rw [aluAnd, BitVec.getLsbD_setWidth, BitVec.getLsbD_and, decide_eq_true hi, Bool.true_and]

theorem getLsbD_aluXor (hi : i < 24) : (aluXor x y).getLsbD i = (x.getLsbD i ^^ y.getLsbD i) := by
  rw [aluXor, BitVec.getLsbD_setWidth, BitVec.getLsbD_xor, decide_eq_true hi, Bool.true_and]

theorem getLsbD_aluNot (hi : i < 24) : (aluNot x).getLsbD i = !x.getLsbD i := by
  rw [aluNot_exact, BitVec.getLsbD_not, BitVec.getLsbD_setWidth, decide_eq_true hi, Bool.true_and, Bool.true_and]

end Bits

/-- The cell takes the result bit by bit, under a guard bit of 0. -/
theorem writes_bits_of_aluWrite {r : Result} {a : Reg} {w : Word} {s : State} {bit : Nat → Bool} (h : r = aluWrite a w s)
    (hbits : ∀ i < 24, w.getLsbD i = bit i) :
    ∃ t, r = .next t ∧ OnlyCell a s t ∧ (t.reg a).getLsbD 24 = false ∧ ∀ i < 24, (t.reg a).getLsbD i = bit i := by
  obtain ⟨t, ht, hcell, honly⟩ := writesCell_of_aluWrite h
  refine ⟨t, ht, honly, ?_, fun i hi => ?_⟩
  · rw [hcell, guardBit_zext25]
  · rw [hcell, getLsbD_zext25, hbits i hi]

/-- Settles O25: the encodings, and the bits of each operation's result. -/
theorem logicIsBitwiseWithGuardBitClear : Obligations.LogicIsBitwiseWithGuardBitClear := by
  refine ⟨fun a b => ⟨?_, ?_, ?_, ?_⟩, fun a b s => ⟨?_, ?_, ?_, ?_⟩⟩
  · exact encodes_alu 7 (fun _ => rfl) a b
  · exact encodes_alu 8 (fun _ => rfl) a b
  · exact encodes_alu 9 (fun _ => rfl) a b
  · exact encodes_alu 10 (op := fun a _ => .not a) (fun _ => rfl) a b
  · exact writes_bits_of_aluWrite (exec_or a b s) fun _ => getLsbD_aluOr _ _
  · exact writes_bits_of_aluWrite (exec_and a b s) fun _ => getLsbD_aluAnd _ _
  · exact writes_bits_of_aluWrite (exec_xor a b s) fun _ => getLsbD_aluXor _ _
  · exact writes_bits_of_aluWrite (exec_not a s) fun _ => getLsbD_aluNot _

end Sys2Proof.Machine

/-! # Proofs: halt and print (46_system.md R220 to R224) -/

namespace Sys2Proof.Machine

/-! ## Encoding -/

/-- In class `0xE` the first byte selects `HLT`, and the second is ignored (R220). -/
theorem decodeBytes_hlt (b1 : Byte) : decodeBytes 0xE0 b1 0 0 = .hlt := rfl

theorem encodes_hlt (b1 : Byte) : Encodes [0xE0, b1] .hlt := encodes_of_decodeBytes rfl (decodeBytes_hlt b1)

/-- In class `0xE` the first byte selects `PRT`, and the low nibble of the second is ignored (R222). -/
theorem decodeBytes_prt (a : Reg) (x : Fin 16) : decodeBytes 0xEF (nibbles a x) 0 0 = .prt a :=
  calc decodeBytes 0xEF (nibbles a x) 0 0
    _ = .prt (fieldA (nibbles a x)) := rfl
    _ = .prt a := by rw [fieldA_nibbles]

theorem encodes_prt (a : Reg) (x : Fin 16) : Encodes [0xEF, nibbles a x] (.prt a) :=
  encodes_of_decodeBytes rfl (decodeBytes_prt a x)

/-! ## `HLT` -/

theorem exec_hlt (s : State) : exec .hlt s = .next (s.withStatus .halt) := rfl

/-- Settles O26: the encoding, and that `HLT` changes the status alone. -/
theorem hltReportsHaltAndChangesNothing : Obligations.HltReportsHaltAndChangesNothing :=
  ⟨encodes_hlt, fun s => ⟨_, exec_hlt s, sameMachine_withStatus s .halt, status_withStatus s .halt⟩⟩

/-! ## `PRT` -/

theorem exec_prt (a : Reg) (s : State) : exec (.prt a) s = execPrt a s := rfl

/-- The first `n` bytes in memory from the start address of `PRT` on. -/
def State.printedBytes (s : State) (a : Reg) (n : Nat) : List Byte :=
  (List.range n).map fun k => s.byteAt (s.printAddress a + k)

/-- A zero byte inside memory ends the string: `PRT` emits the bytes before the first one and goes on (R222). -/
theorem exec_prt_of_firstZero {a : Reg} {s : State} {n : Nat} (hin : s.printAddress a + n < memSize)
    (hzero : s.byteAt (s.printAddress a + n) = 0) (hbefore : ∀ k < n, s.byteAt (s.printAddress a + k) ≠ 0) :
    exec (.prt a) s = .next ((s.emit (s.printedBytes a n)).withStatus .cont) := by
  have hscan : scanString s.mem (memSize - s.printAddress a) (s.printAddress a) = (s.printedBytes a n, true) :=
    scanString_found s.mem _ _ n (by omega) hzero hbefore
  rw [exec_prt, execPrt, hscan]
  rfl

/-- Without a zero byte up to the end of memory, `PRT` emits all the bytes up to there and faults (R222, D9). A start address
outside memory is the case of no bytes. -/
theorem exec_prt_of_noZero {a : Reg} {s : State} (hnone : ∀ q, s.printAddress a ≤ q → q < memSize → s.byteAt q ≠ 0) :
    exec (.prt a) s =
      .fault (.printOutOfRange ((s.emit (s.printedBytes a (memSize - s.printAddress a))).withStatus .fault)) := by
  have hscan : scanString s.mem (memSize - s.printAddress a) (s.printAddress a) =
      (s.printedBytes a (memSize - s.printAddress a), false) :=
    scanString_none s.mem _ _ fun k hk => hnone _ (Nat.le_add_right _ k) (by omega)
  rw [exec_prt, execPrt, hscan]
  rfl

theorem sameRegs_emitted (s : State) (bs : List Byte) (st : Status) : SameRegs s ((s.emit bs).withStatus st) :=
  reg_emit s bs

theorem sameMemory_emitted (s : State) (bs : List Byte) (st : Status) : SameMemory s ((s.emit bs).withStatus st) :=
  byteAt_emit s bs

/-- Settles O27: the encoding, the raw start address, and the two outcomes of the scan, which change the output and the
status alone. -/
theorem prtEmitsUpToTheFirstZeroByte : Obligations.PrtEmitsUpToTheFirstZeroByte := by
  refine ⟨encodes_prt, fun _ _ => rfl, fun a s n hin hzero hbefore => ?found, fun a s hnone => ?outOfRange⟩
  case found =>
    exact ⟨_, exec_prt_of_firstZero hin hzero hbefore, sameRegs_emitted s _ _, sameMemory_emitted s _ _,
      status_withStatus _ _, out_emit s (s.printedBytes a n)⟩
  case outOfRange =>
    exact ⟨_, exec_prt_of_noZero hnone, sameRegs_emitted s _ _, sameMemory_emitted s _ _,
      status_withStatus _ _, out_emit s (s.printedBytes a (memSize - s.printAddress a))⟩

end Sys2Proof.Machine

/-! # Proofs: the start state of a run (70_reset_and_hazards.md R270 to R272) -/

namespace Sys2Proof.Machine

/-- The start state in the model's own operations: the image in place of the memory of reset, then `INITIAL_PC` as a write of
cell 15. What it holds follows from the rules for reset and for `setPc`. -/
theorem start_eq_setPc (image : Memory) (initialPc : Word) :
    State.start image initialPc = ({ State.reset with mem := image } : State).setPc (zext25 initialPc) := rfl

@[simp] theorem mem_start (image : Memory) (initialPc : Word) : (State.start image initialPc).mem = image := rfl
@[simp] theorem out_start (image : Memory) (initialPc : Word) : (State.start image initialPc).out = [] := rfl

@[simp] theorem pc_start (image : Memory) (initialPc : Word) : (State.start image initialPc).pc = zext25 initialPc := by
  rw [start_eq_setPc, pc_setPc]

theorem byteAt_start (image : Memory) (initialPc : Word) (a : Nat) :
    (State.start image initialPc).byteAt a = readByte image a := by
  rw [byteAt_eq, mem_start]

/-- Every cell but `pc` is the one of reset, the flags cell too. -/
theorem reg_start_of_ne_pcReg (image : Memory) (initialPc : Word) {r : Reg} (hr : r ≠ pcReg) :
    (State.start image initialPc).reg r = 0 :=
  calc (State.start image initialPc).reg r
    _ = ({ State.reset with mem := image } : State).reg r := by rw [start_eq_setPc, reg_setPc, if_neg hr]
    _ = State.reset.reg r := rfl
    _ = 0 := reg_reset r

/-- `INITIAL_PC` is a word of 24 bits, so cell 15 holds its value whole, with guard bit 0. -/
theorem toNat_pc_start (image : Memory) (initialPc : Word) :
    (State.start image initialPc).pc.toNat = initialPc.toNat := by
  rw [pc_start, toNat_zext25]

/-- Settles O45: the bytes of the image, the pc, the other cells and the output of the start state, each by its own lemma. -/
theorem startHoldsTheImageAndTheInitialPc : Obligations.StartHoldsTheImageAndTheInitialPc :=
  fun image initialPc =>
    ⟨byteAt_start image initialPc, toNat_pc_start image initialPc, fun _ hr => reg_start_of_ne_pcReg image initialPc hr,
      out_start image initialPc⟩

end Sys2Proof.Machine

/-! # Proofs: the encoder and the decoder are inverse (30_encoding.md R80, R87, R92) -/

namespace Sys2Proof.Machine

/-! ## Decode after encode -/

/-- An arm of the decoder that reads both registers, at the byte the encoder writes for them. -/
theorem encodes_regPair {b0 : Byte} {op : Reg → Reg → Instr} (hshort : isLongForm b0 = false)
    (harm : ∀ b1, decodeBytes b0 b1 0 0 = op (fieldA b1) (fieldB b1)) (a b : Reg) :
    Encodes [b0, regPair a b] (op a b) :=
  encodes_of_decodeBytes hshort (by rw [harm, fieldA_regPair, fieldB_regPair])

/-- An arm of the decoder that reads register `A` alone, at the byte the encoder writes for it. -/
theorem encodes_regHigh {b0 : Byte} {op : Reg → Instr} (hshort : isLongForm b0 = false)
    (harm : ∀ b1, decodeBytes b0 b1 0 0 = op (fieldA b1)) (a : Reg) : Encodes [b0, regHigh a] (op a) :=
  encodes_of_decodeBytes hshort (by rw [harm, fieldA_regHigh])

/-- The encoder's bytes for `LDI`: the operand nibble and the three immediate bytes read back. -/
theorem encodes_encode_ldi (d : Reg) (imm : Word) : Encodes (encode (.ldi d imm)) (.ldi d imm) := by
  have h := encodes_ldi d (imm.extractLsb' 0 8) (imm.extractLsb' 8 8) (imm.extractLsb' 16 8)
  rwa [immediate_bytes, nibbles_ldi] at h

/-- Settles O1, by the operands an instruction has: the immediate, two registers, one, or none. -/
theorem decodeInvertsEncode : Obligations.DecodeInvertsEncode := by
  intro i
  cases i with
  | ldi d imm => exact encodes_encode_ldi d imm
  | ld a b | st a b | mov a b | cmp a b | add a b | sub a b | mul a b | div a b | mod a b | shl a b | shr a b
  | or a b | and a b | xor a b => exact encodes_regPair rfl (fun _ => rfl) a b
  | jmp a | jeq a | jgt a | jf3 a | jlt a | jf5 a | jne a | not a | inc a | dec a | prt a =>
    exact encodes_regHigh rfl (fun _ => rfl) a
  | _ => exact encodes_of_decodeBytes rfl rfl

/-- No two instructions have one encoding, since the decoder tells them apart. -/
theorem encode_injective {i j : Instr} (h : encode i = encode j) : i = j := by
  have hi : decode (encode i ++ []) = .ok (i, []) := decodeInvertsEncode i []
  have hj : decode (encode j ++ []) = .ok (j, []) := decodeInvertsEncode j []
  rw [h, hj] at hi
  cases hi
  rfl

/-! ## Encode after decode: the short form

The encoder writes back the bits of `b1` the decoder reads. Which bits these are shows in the encoding of what the decoder
makes of `b1 = 0xFF`. -/

/-- The bytes with the second one masked by `b1`. -/
def maskSecond (b1 : Byte) : List Byte → List Byte
  | m0 :: m1 :: ms => m0 :: (b1 &&& m1) :: ms
  | bs => bs

theorem regPair_fields_eq_and (b1 : Byte) :
    regPair (fieldA b1) (fieldB b1) = b1 &&& regPair (fieldA 0xFF) (fieldB 0xFF) := by
  revert b1; decide

theorem regHigh_fieldA_eq_and (b1 : Byte) : regHigh (fieldA b1) = b1 &&& regHigh (fieldA 0xFF) := by
  revert b1; decide

theorem and_zero_byte (b1 : Byte) : b1 &&& 0x00 = 0x00 := BitVec.and_zero

theorem encode_decodeTransfer (b0 b1 : Byte) :
    encode (decodeTransfer b0 b1) = maskSecond b1 (encode (decodeTransfer b0 0xFF)) := by
  unfold decodeTransfer
  split <;> simp only [encode, maskSecond, ← regPair_fields_eq_and, and_zero_byte]

theorem encode_decodeJump (b0 b1 : Byte) :
    encode (decodeJump b0 b1) = maskSecond b1 (encode (decodeJump b0 0xFF)) := by
  unfold decodeJump
  split <;> simp only [encode, maskSecond, ← regHigh_fieldA_eq_and, and_zero_byte]

theorem encode_decodeAlu (b0 b1 : Byte) :
    encode (decodeAlu b0 b1) = maskSecond b1 (encode (decodeAlu b0 0xFF)) := by
  unfold decodeAlu
  split <;> simp only [encode, maskSecond, ← regPair_fields_eq_and, ← regHigh_fieldA_eq_and, and_zero_byte]

theorem encode_decodeSystem (b0 b1 : Byte) :
    encode (decodeSystem b0 b1) = maskSecond b1 (encode (decodeSystem b0 0xFF)) := by
  unfold decodeSystem
  split <;> simp only [encode, maskSecond, ← regHigh_fieldA_eq_and, and_zero_byte]

theorem encode_decodeBytes_short {b0 : Byte} (hshort : isLongForm b0 = false) (b1 b2 b3 : Byte) :
    encode (decodeBytes b0 b1 b2 b3) = maskSecond b1 (encode (decodeBytes b0 0xFF 0 0)) := by
  unfold decodeBytes
  split
  case h_2 => exact encode_decodeTransfer b0 b1
  case h_3 => simp only [encode, maskSecond, ← regPair_fields_eq_and]
  case h_4 => exact encode_decodeJump b0 b1
  case h_5 => exact encode_decodeAlu b0 b1
  case h_15 => exact encode_decodeSystem b0 b1
  case h_16 =>
    exfalso
    unfold isLongForm at hshort
    generalize highNibble b0 = c at *
    revert c
    decide
  all_goals simp only [encode, maskSecond, and_zero_byte]

/-- Row by row, the bits the encoder writes back are those the row does not ignore. -/
theorem encode_decodeBytes_rowsOfClass (c p2 : BitVec 4) :
    ∀ r ∈ rowsOfClass c, r.matchesByte (c ++ p2) = true → isLongForm (c ++ p2) = false →
      encode (decodeBytes (c ++ p2) 0xFF 0 0) = [(c ++ p2) &&& ~~~r.ignored0, ~~~r.ignored1] := by
  revert c p2; decide

theorem mem_rowsOfClass {r : OpcodeRow} {b0 : Byte} (hr : r ∈ opcodeTable) (hb : r.matchesByte b0 = true) :
    r ∈ rowsOfClass (highNibble b0) := by
  rw [← filter_class_opcodeTable, List.mem_filter]
  exact ⟨hr, beq_iff_eq.mpr (highNibble_pattern_of_matchesByte hr hb)⟩

/-- The encoder clears the bits the row ignores, and no other (R87, R92). -/
theorem encode_decodeBytes_of_matchesByte {r : OpcodeRow} {b0 : Byte} (hr : r ∈ opcodeTable)
    (hb : r.matchesByte b0 = true) (hshort : isLongForm b0 = false) (b1 b2 b3 : Byte) :
    encode (decodeBytes b0 b1 b2 b3) = [b0 &&& ~~~r.ignored0, b1 &&& ~~~r.ignored1] := by
  have hrow := encode_decodeBytes_rowsOfClass (highNibble b0) (lowNibble b0) r (mem_rowsOfClass hr hb)
  rw [highNibble_append_lowNibble] at hrow
  rw [encode_decodeBytes_short hshort, hrow hb hshort, maskSecond]

/-! ## Encode after decode: the long form -/

theorem highNibble_of_isLongForm {b0 : Byte} (hlong : isLongForm b0 = true) : highNibble b0 = 0xF#4 := eq_of_beq hlong

/-- The three bytes of an immediate are its own (R84). -/
theorem extract_immediate (b1 b2 b3 : Byte) :
    (immediate b1 b2 b3).extractLsb' 0 8 = b1 ∧ (immediate b1 b2 b3).extractLsb' 8 8 = b2 ∧
      (immediate b1 b2 b3).extractLsb' 16 8 = b3 := by
  have h1 := b1.isLt
  have h2 := b2.isLt
  have h3 := b3.isLt
  refine ⟨?_, ?_, ?_⟩ <;> apply BitVec.eq_of_toNat_eq <;>
    rw [BitVec.extractLsb'_toNat, toNat_immediate, Nat.shiftRight_eq_div_pow] <;> omega

theorem decodeBytes_long {b0 : Byte} (hlong : isLongForm b0 = true) (b1 b2 b3 : Byte) :
    decodeBytes b0 b1 b2 b3 = .ldi (lowNibble b0).toFin (immediate b1 b2 b3) := by
  rw [decodeBytes, highNibble_of_isLongForm hlong]
  rfl

/-- In the long form no bit is ignored: the encoder writes back every byte. -/
theorem encode_decodeBytes_long {b0 : Byte} (hlong : isLongForm b0 = true) (b1 b2 b3 : Byte) :
    encode (decodeBytes b0 b1 b2 b3) = [b0, b1, b2, b3] := by
  obtain ⟨h1, h2, h3⟩ := extract_immediate b1 b2 b3
  have h0 : 0xF#4 ++ lowNibble b0 = b0 := by
    rw [← highNibble_of_isLongForm hlong, highNibble_append_lowNibble]
  rw [decodeBytes_long hlong, encode, h1, h2, h3, BitVec.ofFin_toFin, h0]

/-! ## Canonical strings -/

/-- The instruction decoded is as long as its first byte tells (R80). -/
theorem length_decodeBytes (b0 b1 b2 b3 : Byte) : (decodeBytes b0 b1 b2 b3).length = formLength b0 := by
  have hfirst : ∀ b0 : Byte, (decodeBytes b0 0 0 0).length = formLength b0 := by decide
  calc (decodeBytes b0 b1 b2 b3).length
    _ = (decodeBytes b0 0 0 0).length := congrArg Prod.snd (heading_decodeBytes b0 b1 b2 b3)
    _ = formLength b0 := hfirst b0

/-- So is the row (R80). -/
theorem length_row_of_matchesByte {r : OpcodeRow} {b0 : Byte} (hr : r ∈ opcodeTable) (hb : r.matchesByte b0 = true) :
    r.length = formLength b0 :=
  calc r.length
    _ = (decodeBytes b0 0 0 0).length := (congrArg Prod.snd (heading_decodeBytes_of_matchesByte hr 0 0 0 hb)).symm
    _ = formLength b0 := length_decodeBytes b0 0 0 0

/-- A canonical string is of the length its first byte tells, with zero in every bit its row ignores. -/
theorem exists_row_of_canonical {bs : List Byte} (h : canonical bs = true) :
    ∃ b0 b1 rest r, bs = b0 :: b1 :: rest ∧ r ∈ opcodeTable ∧ r.matchesByte b0 = true ∧
      rest.length + 2 = formLength b0 ∧ b0 &&& r.ignored0 = 0 ∧ b1 &&& r.ignored1 = 0 := by
  unfold canonical at h
  split at h
  case h_2 => cases h
  case h_1 b0 b1 rest =>
    split at h
    case h_2 => cases h
    case h_1 r hr =>
      simp only [Bool.and_eq_true, beq_iff_eq] at h
      obtain ⟨⟨hlen, h0⟩, h1⟩ := h
      have hmem := List.mem_of_find?_eq_some hr
      have hb := List.find?_some hr
      exact ⟨b0, b1, rest, r, rfl, hmem, hb, hlen.trans (length_row_of_matchesByte hmem hb), h0, h1⟩

theorem and_not_eq_self {b m : Byte} (h : b &&& m = 0) : b &&& ~~~m = b := by
  ext i hi
  have hbit : (b[i] && m[i]) = false := by rw [← BitVec.getElem_and, h]; exact BitVec.getElem_zero hi
  simpa using hbit

/-- Settles O2: a canonical string is of one of the two forms, and in each the encoder clears none of its bits. -/
theorem encodeInvertsDecodeOnCanonicalBytes : Obligations.EncodeInvertsDecodeOnCanonicalBytes := by
  intro bs hbs
  obtain ⟨b0, b1, rest, r, rfl, hr, hb, hlen, h0, h1⟩ := exists_row_of_canonical hbs
  cases hform : isLongForm b0 with
  | false =>
    obtain rfl : rest = [] := by simpa [formLength, hform] using hlen
    refine ⟨_, decode_of_not_isLongForm hform b1 [], ?_⟩
    rw [encode_decodeBytes_of_matchesByte hr hb hform, and_not_eq_self h0, and_not_eq_self h1]
  | true =>
    obtain ⟨b2, b3, rfl⟩ : ∃ b2 b3, rest = [b2, b3] := by
      simpa [formLength, hform, List.length_eq_two] using hlen
    exact ⟨_, decode_of_isLongForm hform b1 b2 b3 [], encode_decodeBytes_long hform b1 b2 b3⟩

/-! ## Ignored bits -/

theorem and_not_eq_and_not {x y m : Byte} (h : (x ^^^ y) &&& ~~~m = 0) : x &&& ~~~m = y &&& ~~~m := by
  have hbool : ∀ p q r : Bool, ((p ^^ q) && !r) = false → (p && !r) = (q && !r) := by decide
  ext i hi
  have hbit : ((x[i] ^^ y[i]) && !m[i]) = false := by
    rw [← BitVec.getElem_xor, ← BitVec.getElem_not, ← BitVec.getElem_and, h]
    exact BitVec.getElem_zero hi
  simpa using hbool _ _ _ hbit

/-- No row ignores a bit of its mask, and the row of the long form ignores none. -/
theorem mask_of_mem_opcodeTable : ∀ r ∈ opcodeTable, r.mask &&& ~~~r.ignored0 = r.mask ∧
    (r.length = 4 → r.ignored0 = 0 ∧ r.ignored1 = 0) := by decide

/-- Bits the row ignores do not unmake the match (R83, R87). -/
theorem matchesByte_of_and_not_eq {r : OpcodeRow} (hr : r ∈ opcodeTable) {b0 c0 : Byte}
    (h : b0 &&& ~~~r.ignored0 = c0 &&& ~~~r.ignored0) : r.matchesByte c0 = r.matchesByte b0 := by
  have hmask (b : Byte) : b &&& r.mask = (b &&& ~~~r.ignored0) &&& r.mask := by
    rw [BitVec.and_assoc, BitVec.and_comm (~~~r.ignored0), (mask_of_mem_opcodeTable r hr).1]
  rw [OpcodeRow.matchesByte, OpcodeRow.matchesByte, hmask b0, hmask c0, h]

/-- Settles O3. In the short form the encoder clears the ignored bits, so the two decoded instructions have one encoding; the
long form ignores no bit. -/
theorem ignoredBitsNeverMatter : Obligations.IgnoredBitsNeverMatter := by
  intro r hr b0 b1 c0 c1 hb h0 h1 rest
  have e0 := and_not_eq_and_not h0
  have e1 := and_not_eq_and_not h1
  have hc : r.matchesByte c0 = true := (matchesByte_of_and_not_eq hr e0).trans hb
  have hlen : formLength c0 = formLength b0 := by
    rw [← length_row_of_matchesByte hr hb, ← length_row_of_matchesByte hr hc]
  cases hform : isLongForm b0 with
  | false =>
    have hform' : isLongForm c0 = false := by simpa [formLength, hform] using hlen
    have hinstr : decodeBytes c0 c1 0 0 = decodeBytes b0 b1 0 0 := encode_injective (by
      rw [encode_decodeBytes_of_matchesByte hr hc hform', encode_decodeBytes_of_matchesByte hr hb hform, e0, e1])
    rw [decode_of_not_isLongForm hform', decode_of_not_isLongForm hform, hinstr]
  | true =>
    have hrow : r.length = 4 := by rw [length_row_of_matchesByte hr hb, formLength, if_pos hform]
    obtain ⟨z0, z1⟩ := (mask_of_mem_opcodeTable r hr).2 hrow
    have hkeep (b : Byte) : b &&& ~~~0 = b := and_not_eq_self (and_zero_byte b)
    rw [z0, hkeep, hkeep] at e0
    rw [z1, hkeep, hkeep] at e1
    rw [e0, e1]

/-! ## The length, and the strings that end too soon -/

/-- Two bytes or three, of a four-byte instruction. -/
theorem decode_truncated_long {b0 : Byte} (hlong : isLongForm b0 = true) (b1 : Byte) {rest : List Byte}
    (h : rest.length < 2) : decode (b0 :: b1 :: rest) = .error .truncated := by
  match rest, h with
  | [], _ => simp [decode, hlong]
  | [b2], _ => simp [decode, hlong]

theorem decode_truncated {bs : List Byte} (h : bs.length < 2) : decode bs = .error .truncated := by
  match bs, h with
  | [], _ => rfl
  | [b0], _ => rfl

/-- Settles O4: in each form the decoder's own equation, and the length its first byte tells. -/
theorem firstByteTellsLengthAndDecodeIsTotal : Obligations.FirstByteTellsLengthAndDecodeIsTotal := by
  refine ⟨fun b0 b1 rest h => ?short, fun b0 b1 b2 b3 rest h => ?long, fun bs => decode_truncated, fun b0 b1 rest h =>
    decode_truncated_long ((isLongForm_iff_toNat_div b0).mpr h) b1⟩
  case short =>
    have hform : isLongForm b0 = false := Bool.eq_false_iff.mpr (mt (isLongForm_iff_toNat_div b0).mp h)
    exact ⟨_, decode_of_not_isLongForm hform b1 rest, (length_decodeBytes b0 b1 0 0).trans (formLength_eq_two h)⟩
  case long =>
    have hform : isLongForm b0 = true := (isLongForm_iff_toNat_div b0).mpr h
    exact ⟨_, decode_of_isLongForm hform b1 b2 b3 rest, (length_decodeBytes b0 b1 b2 b3).trans (formLength_eq_four h)⟩

/-! ## The tables -/

/-- Settles O6: the decoder evaluated on each of the seven words. -/
theorem wordsOfTheEncodingTablesDecode : Obligations.WordsOfTheEncodingTablesDecode :=
  ⟨rfl, rfl, rfl, rfl, rfl, rfl, rfl⟩

theorem regHigh_eq_nibbles (a : Reg) : regHigh a = nibbles a 0 := by
  revert a; decide

theorem regPair_eq_nibbles (a b : Reg) : regPair a b = nibbles a b := (nibbles_eq_regPair a b).symm

theorem ldi_firstByte (d : Reg) : 0xF#4 ++ BitVec.ofFin (w := 4) d = BitVec.ofNat 8 (0xF0 + d.val) := by
  revert d; decide

/-- A byte of a word is its number shifted down. -/
theorem extractLsb'_eq_ofNat (imm : Word) (k : Nat) : imm.extractLsb' k 8 = BitVec.ofNat 8 (imm.toNat / 2 ^ k) := by
  rw [BitVec.extractLsb', Nat.shiftRight_eq_div_pow]

/-- Settles O47: `encode` writes the register pair, the single register and the immediate's bytes as the numbers the table
gives them. -/
theorem encoderWritesTheBytesOfTheSyntaxTable : Obligations.EncoderWritesTheBytesOfTheSyntaxTable := by
  intro a b d imm
  simp only [encode, regPair_eq_nibbles, regHigh_eq_nibbles, ldi_firstByte, extractLsb'_eq_ofNat, true_and]
  rw [pow_zero, Nat.div_one]
  rfl

end Sys2Proof.Machine

/-! # Proofs: the canonical form of memory (20_memory.md R54 to R60; log entry 7) -/

namespace Sys2Proof.Machine

theorem readByte_cons_self (k : Nat) (c : Byte) (m : Memory) : readByte ((k, c) :: m) k = c := by
  rw [readByte_cons, if_pos rfl]

/-- Where two canonical lists read alike at the first address the one lists, the other does not begin above it: it would hold
the unlisted byte there. -/
theorem le_of_readByte_first {lo k k' : Nat} {c c' : Byte} {m m' : Memory} (h : Memory.wfFrom lo ((k, c) :: m) = true)
    (h' : Memory.wfFrom lo ((k', c') :: m') = true)
    (hread : readByte ((k, c) :: m) k = readByte ((k', c') :: m') k) : k' ≤ k := by
  obtain ⟨-, -, hc, -⟩ := wfFrom_cons.mp h
  obtain ⟨-, hk', hc', hm'⟩ := wfFrom_cons.mp h'
  by_contra hlt
  have hbelow : readByte ((k', c') :: m') k = unlistedByte :=
    readByte_of_lt (wfFrom_cons.mpr ⟨Nat.le_refl k', hk', hc', hm'⟩) (by omega)
  rw [readByte_cons_self, hbelow] at hread
  exact hc hread

/-- Canonical lists that read alike have the same first entry, and below the next address no byte listed, so their rests read
alike too. -/
theorem eq_of_readByte_eq {lo : Nat} {m m' : Memory} (h : Memory.wfFrom lo m = true) (h' : Memory.wfFrom lo m' = true)
    (hread : ∀ a, readByte m a = readByte m' a) : m = m' := by
  induction m generalizing lo m' with
  | nil =>
    cases m' with
    | nil => rfl
    | cons e' m' =>
      obtain ⟨k', c'⟩ := e'
      obtain ⟨-, -, hc', -⟩ := wfFrom_cons.mp h'
      exact absurd ((readByte_cons_self k' c' m').symm.trans (hread k').symm) hc'
  | cons e m ih =>
    obtain ⟨k, c⟩ := e
    obtain ⟨-, -, hc, hm⟩ := wfFrom_cons.mp h
    cases m' with
    | nil => exact absurd ((readByte_cons_self k c m).symm.trans (hread k)) hc
    | cons e' m' =>
      obtain ⟨k', c'⟩ := e'
      obtain ⟨-, -, -, hm'⟩ := wfFrom_cons.mp h'
      obtain rfl : k = k' := Nat.le_antisymm (le_of_readByte_first h' h (hread k').symm) (le_of_readByte_first h h' (hread k))
      obtain rfl : c = c' := by simpa only [readByte_cons_self] using hread k
      have htail : ∀ a, readByte m a = readByte m' a := by
        intro a
        by_cases ha : a ≤ k
        · rw [readByte_of_lt hm (by omega), readByte_of_lt hm' (by omega)]
        · simpa only [readByte_cons, if_neg (show a ≠ k by omega)] using hread a
      rw [ih hm hm' htail]

/-- Settles O43: `eq_of_readByte_eq` from address 0 on. -/
theorem canonicalMemoriesAreDeterminedByTheirBytes : Obligations.CanonicalMemoriesAreDeterminedByTheirBytes :=
  fun _ _ => eq_of_readByte_eq

end Sys2Proof.Machine

/-! # Proofs: the step and the bytes at `pc` (40_step_and_nop.md R110 to R112, 20_memory.md R51, R62) -/

namespace Sys2Proof.Machine

/-! ## What the decoder has read -/

/-- All a decoding can be: the first byte tells which of the two forms was read. -/
theorem decode_eq_ok {bs rest : List Byte} {i : Instr} (h : decode bs = .ok (i, rest)) :
    (∃ b0 b1, isLongForm b0 = false ∧ bs = b0 :: b1 :: rest ∧ i = decodeBytes b0 b1 0 0) ∨
      (∃ b0 b1 b2 b3, isLongForm b0 = true ∧ bs = b0 :: b1 :: b2 :: b3 :: rest ∧ i = decodeBytes b0 b1 b2 b3) := by
  unfold decode at h
  split at h
  case h_2 => cases h
  case h_1 b0 b1 tail =>
    split at h
    case isFalse hform =>
      cases h
      exact .inl ⟨b0, b1, Bool.eq_false_iff.mpr hform, rfl, rfl⟩
    case isTrue hform =>
      split at h
      case h_2 => cases h
      case h_1 b2 b3 tail =>
        cases h
        exact .inr ⟨b0, b1, b2, b3, hform, rfl, rfl⟩

/-- Bytes after the instruction do not change what is read. -/
theorem decode_append {bs rest : List Byte} {i : Instr} (h : decode bs = .ok (i, rest)) (more : List Byte) :
    decode (bs ++ more) = .ok (i, rest ++ more) := by
  obtain ⟨b0, b1, hform, rfl, rfl⟩ | ⟨b0, b1, b2, b3, hform, rfl, rfl⟩ := decode_eq_ok h
  · exact decode_of_not_isLongForm hform b1 (rest ++ more)
  · exact decode_of_isLongForm hform b1 b2 b3 (rest ++ more)

/-- The instruction read is as long as the first byte tells (30_encoding.md R80). -/
theorem formLength_of_decode {b0 : Byte} {bs rest : List Byte} {i : Instr} (h : decode (b0 :: bs) = .ok (i, rest)) :
    formLength b0 = i.length := by
  obtain ⟨c0, b1, -, hbs, rfl⟩ | ⟨c0, b1, b2, b3, -, hbs, rfl⟩ := decode_eq_ok h <;>
    rw [length_decodeBytes, (List.cons.inj hbs).1]

/-! ## The step -/

/-- Settles O7: the fetch takes as many bytes as the instruction is long, and they alone are decoded. -/
theorem stepRunsTheDecodedInstruction : Obligations.StepRunsTheDecodedInstruction := by
  intro s i rest hs hdecode hfits
  obtain ⟨j, hj, hstep⟩ := step_of_pc_fits hs (formLength_of_decode hdecode) hfits
  have hall := decode_append hj (s.bytesAtPc.drop i.length)
  rw [List.take_append_drop, hdecode] at hall
  cases hall
  exact hstep

/-- Settles O9: the status is looked at before the fetch. -/
theorem noStepAfterTheEndOfTheRun : Obligations.NoStepAfterTheEndOfTheRun :=
  fun s => ⟨fun h => by simp [step, h], fun h => by simp [step, h]⟩

/-- Settles O12: `MOV` copies the `pc` of the state the fetch leaves. -/
theorem movFromPcGivesTheNextAddress : Obligations.MovFromPcGivesTheNextAddress := by
  intro s b rest hs hfits hb hdecode
  have hstep := stepRunsTheDecodedInstruction s _ rest hs hdecode hfits
  obtain ⟨t, ht, hcell, hregs, -⟩ := movCopiesTheRawCell.2 pcReg b (s.setPc (s.pc + BitVec.ofNat 25 2))
  have hpc : ((s.setPc (s.pc + BitVec.ofNat 25 2)).reg pcReg).toNat = s.pc.toNat + 2 :=
    (congrArg BitVec.toNat (pc_setPc s _)).trans (toNat_pc_add hfits)
  refine ⟨t, hstep.trans ht, ?_, ?_, fun q hqb hqpc => ?_⟩
  · rw [hcell, hpc]
  · rw [hregs pcReg hb.symm, hpc]
  · rw [hregs q hqb]
    exact reg_setReg_ne s _ hqpc

/-! ## A store seen by the next fetch -/

/-- An `ST` through `pc` at the step: the three bytes after the instruction become `0xFF`. -/
theorem step_st_pc {s : State} {a : Reg} {rest : List Byte} (hs : s.status = .cont) (hfits : s.pc.toNat + 6 ≤ 0x1000000)
    (hdecode : decode s.bytesAtPc = .ok (.st a pcReg, rest)) :
    ∃ t, step s = .next t ∧ t.status = .cont ∧ t.pc.toNat = s.pc.toNat + 2 ∧ (∀ q, q ≠ pcReg → t.reg q = s.reg q) ∧
      (∀ k < 3, t.byteAt (s.pc.toNat + 2 + k) = 0xFF) ∧ t.byteAt (s.pc.toNat + 5) = s.byteAt (s.pc.toNat + 5) := by
  have hpc : (s.pc + BitVec.ofNat 25 2).toNat = s.pc.toNat + 2 := toNat_pc_add (by rw [memSize_eq]; omega)
  have hstep := stepRunsTheDecodedInstruction s _ rest hs hdecode (show s.pc.toNat + 2 ≤ 0x1000000 by omega)
  obtain ⟨t, ⟨hregs, -, hbytes⟩, hexec⟩ := exec_st a pcReg (s.setPc (s.pc + BitVec.ofNat 25 2))
  have haddr : (s.setPc (s.pc + BitVec.ofNat 25 2)).storeAddress pcReg = s.pc.toNat + 2 := by
    rw [← hpc]; exact congrArg BitVec.toNat (pc_setPc s _)
  rw [haddr, if_pos (by omega)] at hexec
  rw [haddr] at hbytes
  refine ⟨_, hstep.trans hexec, rfl, ?_, fun q hq => ?_, fun k hk => ?_, ?_⟩
  · rw [← hpc]
    exact congrArg BitVec.toNat ((hregs pcReg).trans (pc_setPc s _))
  · exact (hregs q).trans (reg_setReg_ne s _ hq)
  · exact (hbytes _).trans (if_pos (by omega))
  · exact (hbytes _).trans (if_neg (by omega))

/-- Settles O11: after `step_st_pc` the byte at `pc` is `0xFF`, so the next step is an `LDI` into `pc` of `0xFF`, `0xFF` and the
byte after the three stored ones. -/
theorem storeIsSeenByTheNextFetch : Obligations.StoreIsSeenByTheNextFetch := by
  intro s a hs hfits hdecode
  obtain ⟨t, hstep, hstatus, hpc, hregs, hff, hlast⟩ := step_st_pc hs hfits hdecode
  have hopcode : t.byteAt t.pc.toNat = nibbles 15 pcReg := by
    rw [hpc]; exact hff 0 (by omega)
  have hnext := step_ldi hstatus (by rw [memSize_eq]; omega) hopcode
  obtain ⟨u, hu, ⟨hothers, -, -, -⟩, hcell⟩ := exec_ldi pcReg t.immediateAtPc (t.setPc (t.pc + 4))
  have himm : t.immediateAtPc.toNat = (s.byteAt (s.pc.toNat + 5)).toNat * 65536 + 0xFFFF := by
    have h1 : t.byteAt (t.pc.toNat + 1) = 0xFF := by rw [hpc]; exact hff 1 (by omega)
    have h2 : t.byteAt (t.pc.toNat + 2) = 0xFF := by rw [hpc]; exact hff 2 (by omega)
    have h3 : t.byteAt (t.pc.toNat + 3) = s.byteAt (s.pc.toNat + 5) := by rw [hpc]; exact hlast
    have hFF : (0xFF : Byte).toNat = 255 := rfl
    rw [State.immediateAtPc, toNat_immediate, h1, h2, h3, hFF]
  refine ⟨t, u, hstep, hnext.trans hu, ?_, fun q hq => ?_⟩
  · rw [← himm, ← toNat_zext25]
    exact congrArg BitVec.toNat (hcell.trans (if_pos (by decide)))
  · rw [hothers q hq, State.setPc, reg_setReg_ne _ _ hq, hregs q hq]

/-! ## `LD` and `LDI` on the same bytes -/

/-- Settles O28: `LD` puts the first of the three bytes highest, `LDI` the last. -/
theorem ldAndLdiReadOppositeByteOrders : Obligations.LdAndLdiReadOppositeByteOrders := by
  intro x y z a b d s hin hx hy hz
  refine ⟨⟨_, (exec_ld a b s).trans (if_pos hin), ?_⟩, immediate x y z, encodes_ldi d x y z, toNat_immediate x y z⟩
  subst hx hy hz
  rw [← loadThree_toNat, ← toNat_zext25]
  exact congrArg BitVec.toNat (reg_setReg_same s b _)

/-! ## A placed word -/

theorem length_bytesHighFirst (k w : Nat) : (bytesHighFirst k w).length = k := by
  induction k with
  | zero => rfl
  | succ k ih => rw [bytesHighFirst, List.length_cons, ih]

theorem length_tableBytes (nbits w : Nat) : (tableBytes nbits w).length = 4 := by
  simp [tableBytes, length_bytesHighFirst]

theorem decodeTableWord_eq_some {nbits w : Nat} {i : Instr} (h : decodeTableWord nbits w = some i) :
    ∃ rest, decode (tableBytes nbits w) = .ok (i, rest) := by
  unfold decodeTableWord at h
  split at h
  case h_1 j rest hj =>
    cases h
    exact ⟨rest, hj⟩
  case h_2 => cases h

/-- Where the word is placed four bytes fit. -/
theorem pc_withFetchWord_add_four_le (s : State) (nbits w : Nat) : (s.withFetchWord nbits w).pc.toNat + 4 ≤ memSize := by
  have hpc : (s.withFetchWord nbits w).pc = (if s.pc.toNat + 4 ≤ memSize then s else s.setPc 0).pc := rfl
  rw [hpc]
  split
  case isTrue hfits => exact hfits
  case isFalse =>
    rw [pc_setPc]
    decide

theorem mem_withFetchWord (s : State) (nbits w : Nat) :
    (s.withFetchWord nbits w).mem = placeBytes s.mem (s.withFetchWord nbits w).pc.toNat (tableBytes nbits w) := by
  have hmem : (if s.pc.toNat + 4 ≤ memSize then s else s.setPc 0).mem = s.mem := by
    split
    case isTrue => rfl
    case isFalse => exact mem_setPc s 0
  rw [← hmem]
  rfl

/-- The word's bytes are those the next fetch meets. -/
theorem bytesAtPc_withFetchWord {s : State} (hmem : s.mem.wf = true) (nbits w : Nat) :
    (s.withFetchWord nbits w).bytesAtPc = tableBytes nbits w := by
  have hlen := length_tableBytes nbits w
  have hread (k : Nat) (hk : k < (tableBytes nbits w).length) :
      (s.withFetchWord nbits w).byteAt ((s.withFetchWord nbits w).pc.toNat + k) = (tableBytes nbits w)[k] := by
    rw [byteAt_eq, mem_withFetchWord,
      readByte_placeBytes _ hmem (hlen.symm ▸ pc_withFetchWord_add_four_le s nbits w), if_pos (Nat.le_add_right _ k),
      Nat.add_sub_cancel_left, List.getD_eq_getElem _ _ hk]
  refine List.ext_getElem hlen.symm fun k _ hk => ?_
  rw [← hread k hk]
  rw [hlen] at hk
  interval_cases k <;> rfl

/-- Settles O46: the bytes of the word stand at `pc`, so O7's step applies. -/
theorem placedWordIsTheNextInstruction : Obligations.PlacedWordIsTheNextInstruction := by
  intro s nbits w i hmem hi
  obtain ⟨rest, hdecode⟩ := decodeTableWord_eq_some hi
  rw [← bytesAtPc_withFetchWord hmem] at hdecode
  have hlen : i.length ≤ 4 := by
    rw [← formLength_of_decode hdecode, formLength]
    split <;> omega
  have hfits := pc_withFetchWord_add_four_le s nbits w
  rw [memSize_eq] at hfits
  exact stepRunsTheDecodedInstruction _ i rest rfl hdecode (by omega)

end Sys2Proof.Machine

/-! # Proofs: what an instruction can do (40_step_and_nop.md R113, 60_exceptions.md R240)

Every instruction writes at most one thing into the state it begins in, then ends in one of three ways. `Writes` and `Ends` say
which, `exec_outcome` says it of every instruction, and the statements about all instructions and all steps follow from it. -/

namespace Sys2Proof.Machine

/-! ## What is written -/

/-- The jumps to the raw cell `a`. -/
def JumpsTo (i : Instr) (a : Reg) : Prop :=
  i = .jmp a ∨ i = .jeq a ∨ i = .jgt a ∨ i = .jf3 a ∨ i = .jlt a ∨ i = .jf5 a ∨ i = .jne a

/-- The instructions that copy the raw cell `a` into cell `r`: `MOV`, and the jumps into `pc`. -/
def CopiesInto (i : Instr) (a r : Reg) : Prop := i = .mov a r ∨ (r = pcReg ∧ JumpsTo i a)

/-- The cell an instruction writes a 24-bit result to. -/
def resultCell : Instr → Option Reg
  | .ldi d _ => if validated d then some d else none
  | .ld _ b => some b
  | .add a _ | .sub a _ | .mul a _ | .div a _ | .mod a _ | .shl a _ | .shr a _ => some a
  | .or a _ | .and a _ | .xor a _ | .not a | .inc a | .dec a => some a
  | _ => none

theorem resultCell_ldi (d : Reg) (imm : Word) : resultCell (.ldi d imm) = if validated d then some d else none := rfl

/-- The state `u` is `s` with one thing written that the instruction may write. -/
inductive Writes (s : State) : Instr → State → Prop where
  | nothing {i : Instr} : Writes s i s
  | copy {i : Instr} {a r : Reg} (h : CopiesInto i a r) : Writes s i (s.setReg r (s.reg a))
  | result {i : Instr} {r : Reg} (h : resultCell i = some r) (w : Word) : Writes s i (s.setVal r w)
  | flags (a b : Reg) : Writes s (.cmp a b) (s.setReg flagsReg (s.compareResult a b))
  | store {a b : Reg} {u : State} (h : StoresFFFrom (s.storeAddress b) s u) (hwf : s.mem.wf = true → u.mem.wf = true) :
      Writes s (.st a b) u
  | print (a : Reg) {bs : List Byte} (h : (0 : Byte) ∉ bs) : Writes s (.prt a) (s.emit bs)

theorem cellsWritten_of_copiesInto {i : Instr} {a r : Reg} (h : CopiesInto i a r) : cellsWritten i = [r] := by
  rcases h with rfl | ⟨rfl, rfl | rfl | rfl | rfl | rfl | rfl | rfl⟩ <;> rfl

theorem cellsWritten_of_resultCell {i : Instr} {r : Reg} (h : resultCell i = some r) : cellsWritten i = [r] := by
  cases i with
  | ldi d imm =>
    rw [resultCell_ldi] at h
    split at h
    case isTrue hd =>
      cases h
      exact if_pos hd
    case isFalse => cases h
  | _ => cases h <;> rfl

theorem length_cellsWritten_le_one (i : Instr) : (cellsWritten i).length ≤ 1 := by
  cases i with
  | ldi d imm => rw [cellsWritten]; split <;> simp
  | _ => simp [cellsWritten]

/-- `CMP` leaves one of the three flags (43_compare.md R160). -/
theorem compareResult_cases (s : State) (a b : Reg) :
    s.compareResult a b = 1 ∨ s.compareResult a b = 2 ∨ s.compareResult a b = 4 := by
  unfold State.compareResult
  split
  · exact .inl rfl
  · split
    · exact .inr (.inl rfl)
    · exact .inr (.inr rfl)

theorem compareResult_lt (s : State) (a b : Reg) : (s.compareResult a b).toNat < 0x1000000 := by
  obtain h | h | h := compareResult_cases s a b <;> rw [h] <;> decide

/-- A cell the instruction does not name keeps its value. -/
theorem Writes.reg_eq {i : Instr} {s u : State} (h : Writes s i u) {q : Reg} (hq : q ∉ cellsWritten i) :
    u.reg q = s.reg q := by
  cases h with
  | nothing => rfl
  | copy hcopy =>
    rw [cellsWritten_of_copiesInto hcopy, List.mem_singleton] at hq
    exact reg_setReg_ne s _ hq
  | result hcell w =>
    rw [cellsWritten_of_resultCell hcell, List.mem_singleton] at hq
    exact reg_setReg_ne s _ hq
  | flags => exact reg_setReg_ne s _ (List.mem_singleton.not.mp hq)
  | store hstore => exact hstore.1 q
  | print => rfl

/-- A new value of a cell is a copy, a result with guard bit 0, or one of the three flags. -/
theorem Writes.reg_cases {i : Instr} {s u : State} (h : Writes s i u) (q : Reg) :
    u.reg q = s.reg q ∨ (∃ a, CopiesInto i a q ∧ u.reg q = s.reg a) ∨ (u.reg q).toNat < 0x1000000 := by
  by_cases hq : q ∈ cellsWritten i
  case neg => exact .inl (h.reg_eq hq)
  cases h with
  | nothing => exact .inl rfl
  | copy hcopy =>
    rw [cellsWritten_of_copiesInto hcopy, List.mem_singleton] at hq
    subst hq
    exact .inr (.inl ⟨_, hcopy, reg_setReg_same s q _⟩)
  | result hcell w =>
    rw [cellsWritten_of_resultCell hcell, List.mem_singleton] at hq
    subst hq
    refine .inr (.inr ?_)
    rw [State.setVal, reg_setReg_same]
    exact zext25_lt w
  | flags a b =>
    rw [List.mem_singleton.mp hq, reg_setReg_same]
    exact .inr (.inr (compareResult_lt s a b))
  | store hstore => exact .inl (hstore.1 q)
  | print => exact .inl rfl

/-- A byte of memory changes only by an `ST`, which writes `0xFF` to its three addresses inside memory. -/
theorem Writes.byteAt_cases {i : Instr} {s u : State} (h : Writes s i u) (q : Nat) :
    u.byteAt q = s.byteAt q ∨ ∃ a b, i = .st a b ∧ s.storeAddress b ≤ q ∧ q < s.storeAddress b + 3 ∧ q < 0x1000000 ∧
      u.byteAt q = 0xFF := by
  cases h with
  | nothing | copy | result | flags | print => exact .inl rfl
  | store hstore =>
    rename_i a b hwf
    obtain ⟨-, -, hbytes⟩ := hstore
    have hq := hbytes q
    split at hq
    case isTrue hin => exact .inr ⟨a, b, rfl, hin.1, hin.2.1, hin.2.2, hq⟩
    case isFalse => exact .inl hq

/-- The output grows only by a `PRT`, and never by a zero byte. -/
theorem Writes.out_eq {i : Instr} {s u : State} (h : Writes s i u) :
    ∃ bs : List Byte, u.out = s.out ++ bs ∧ (0 : Byte) ∉ bs ∧ (bs ≠ [] → ∃ a, i = .prt a) := by
  cases h with
  | nothing | copy | result | flags => exact ⟨[], (List.append_nil _).symm, List.not_mem_nil, fun h => absurd rfl h⟩
  | store hstore => exact ⟨[], hstore.2.1.trans (List.append_nil _).symm, List.not_mem_nil, fun h => absurd rfl h⟩
  | print a hbs => exact ⟨_, out_emit s _, hbs, fun _ => ⟨a, rfl⟩⟩

/-- The memory stays canonical. -/
theorem Writes.mem_wf {i : Instr} {s u : State} (h : Writes s i u) (hwf : s.mem.wf = true) : u.mem.wf = true := by
  cases h with
  | nothing | copy | result | flags | print => exact hwf
  | store _ hstore => exact hstore hwf

/-! ## How it ends -/

/-- The cause an instruction faults with, the first column of R240. -/
def faultCause : Instr → Option (State → Fault)
  | .ld _ _ => some .loadOutOfRange
  | .st _ _ => some .storeOutOfRange
  | .div _ _ | .mod _ _ => some .divideByZero
  | .prt _ => some .printOutOfRange
  | _ => none

/-- `r` is how the instruction `i`, begun in `s`, ends from the state `u` with its result written. -/
inductive Ends (i : Instr) (s u : State) (r : Result) : Prop where
  | goesOn (hhlt : i ≠ .hlt) (hcond : ¬ FaultCondition i s) (hr : r = returnContinue u)
  | halts (hhlt : i = .hlt) (hr : r = returnHalt u)
  | faults {c : State → Fault} (hcond : FaultCondition i s) (hcause : faultCause i = some c) (hr : r = raiseFault c u)

/-- The instruction writes what it may and ends as it may. -/
def HasOutcome (i : Instr) (s : State) : Prop := ∃ u, Writes s i u ∧ Ends i s u (exec i s)

/-! ### Instruction by instruction -/

theorem hasOutcome_noOp {i : Instr} (hi : i ∈ noOps) (s : State) : HasOutcome i s := by
  have hrow : i ≠ .hlt ∧ ¬ FaultCondition i s := by fin_cases hi <;> exact ⟨nofun, id⟩
  exact ⟨s, .nothing, .goesOn hrow.1 hrow.2 (exec_of_mem_noOps hi s)⟩

/-- An instruction of the unit that never faults. -/
theorem hasOutcome_aluWrite {i : Instr} {s : State} {r : Reg} {w : Word} (hexec : exec i s = aluWrite r w s)
    (hcell : resultCell i = some r) (hhlt : i ≠ .hlt) (hcond : ¬ FaultCondition i s) : HasOutcome i s :=
  ⟨_, .result hcell w, .goesOn hhlt hcond hexec⟩

/-- `DIV` or `MOD`. -/
theorem hasOutcome_aluDivide {i : Instr} {s : State} {op : Nat → Nat → Word} {a b : Reg}
    (hexec : exec i s = aluDivide op a b s) (hcell : resultCell i = some a) (hhlt : i ≠ .hlt)
    (hcond : FaultCondition i s ↔ s.reg b = 0)
    (hcause : faultCause i = some .divideByZero) : HasOutcome i s := by
  by_cases hb : s.reg b = 0
  · exact ⟨s, .nothing, .faults (hcond.mpr hb) hcause (hexec.trans (aluDivide_of_eq_zero op a hb))⟩
  · exact hasOutcome_aluWrite (hexec.trans (aluDivide_of_ne_zero op a hb)) hcell hhlt (mt hcond.mp hb)

theorem exec_of_jumpsTo {i : Instr} {a : Reg} (h : JumpsTo i a) (s : State) : ∃ taken, exec i s = jumpIf taken a s := by
  rcases h with rfl | rfl | rfl | rfl | rfl | rfl | rfl
  exacts [⟨true, rfl⟩, ⟨flagsEqual s 1, rfl⟩, ⟨flagsEqual s 2, rfl⟩, ⟨flagsEqual s 3, rfl⟩, ⟨flagsEqual s 4, rfl⟩,
    ⟨flagsEqual s 5, rfl⟩, ⟨!flagsEqual s 1, rfl⟩]

/-- A jump, taken or not. -/
theorem hasOutcome_jump {i : Instr} {a : Reg} (h : JumpsTo i a) (s : State) : HasOutcome i s := by
  have hrow : i ≠ .hlt ∧ ¬ FaultCondition i s := by
    rcases h with rfl | rfl | rfl | rfl | rfl | rfl | rfl <;> exact ⟨nofun, id⟩
  obtain ⟨taken, hexec⟩ := exec_of_jumpsTo h s
  cases taken with
  | true => exact ⟨_, .copy (.inr ⟨rfl, h⟩), .goesOn hrow.1 hrow.2 hexec⟩
  | false => exact ⟨s, .nothing, .goesOn hrow.1 hrow.2 hexec⟩

theorem hasOutcome_ldi (d : Reg) (imm : Word) (s : State) : HasOutcome (.ldi d imm) s := by
  have harm : exec (.ldi d imm) s = execLdi d imm s := rfl
  by_cases hd : validated d = true
  · exact ⟨_, .result ((resultCell_ldi d imm).trans (if_pos hd)) imm, .goesOn nofun id (harm.trans (if_pos hd))⟩
  · exact ⟨s, .nothing, .goesOn nofun id (harm.trans (if_neg hd))⟩

theorem hasOutcome_ld (a b : Reg) (s : State) : HasOutcome (.ld a b) s := by
  by_cases hin : s.loadAddress a ≤ 0xFFFFFD
  · have hcond : ¬ 0xFFFFFE ≤ s.loadAddress a := by omega
    exact ⟨_, .result rfl _, .goesOn nofun hcond ((exec_ld a b s).trans (if_pos hin))⟩
  · have hcond : 0xFFFFFE ≤ s.loadAddress a := by omega
    exact ⟨s, .nothing, .faults hcond rfl ((exec_ld a b s).trans (if_neg hin))⟩

theorem hasOutcome_st (a b : Reg) (s : State) : HasOutcome (.st a b) s := by
  obtain ⟨u, hstore, hff⟩ := storeBytes_storedBytes s (s.storeAddress b)
  have harm : exec (.st a b) s = execSt a b s := rfl
  by_cases hin : s.storeAddress b ≤ 0xFFFFFD
  · rw [if_pos hin] at hstore
    have hcond : ¬ 0xFFFFFE ≤ s.storeAddress b := by omega
    have hexec : exec (.st a b) s = returnContinue u := by rw [harm, execSt, hstore]
    exact ⟨u, .store hff fun h => wf_storeBytes s _ _ h u (.inl hstore), .goesOn nofun hcond hexec⟩
  · rw [if_neg hin] at hstore
    have hcond : 0xFFFFFE ≤ s.storeAddress b := by omega
    have hexec : exec (.st a b) s = raiseFault .storeOutOfRange u := by rw [harm, execSt, hstore]
    exact ⟨u, .store hff fun h => wf_storeBytes s _ _ h u (.inr hstore), .faults hcond rfl hexec⟩

theorem zero_notMem_printedBytes {s : State} {a : Reg} {n : Nat} (h : ∀ k < n, s.byteAt (s.printAddress a + k) ≠ 0) :
    (0 : Byte) ∉ s.printedBytes a n := by
  intro hmem
  obtain ⟨k, hk, hzero⟩ := List.mem_map.mp hmem
  exact h k (List.mem_range.mp hk) hzero

/-- When `PRT` does not fault there is a first zero byte inside memory. -/
theorem exists_firstZero {s : State} {a : Reg} (hcond : ¬ FaultCondition (.prt a) s) :
    ∃ n, s.printAddress a + n < memSize ∧ s.byteAt (s.printAddress a + n) = 0 ∧
      ∀ k < n, s.byteAt (s.printAddress a + k) ≠ 0 := by
  have hzero : ∃ n, s.printAddress a + n < memSize ∧ s.byteAt (s.printAddress a + n) = 0 := by
    simp only [FaultCondition, not_forall, not_not] at hcond
    obtain ⟨q, hle, hlt, hq⟩ := hcond
    obtain ⟨n, rfl⟩ := Nat.exists_eq_add_of_le hle
    exact ⟨n, hlt, hq⟩
  obtain ⟨hlt, hz⟩ := Nat.find_spec hzero
  refine ⟨Nat.find hzero, hlt, hz, fun k hk hk0 => ?_⟩
  exact Nat.find_min hzero hk ⟨by omega, hk0⟩

theorem hasOutcome_prt (a : Reg) (s : State) : HasOutcome (.prt a) s := by
  by_cases hcond : FaultCondition (.prt a) s
  · have hnonzero : ∀ k < memSize - s.printAddress a, s.byteAt (s.printAddress a + k) ≠ 0 :=
      fun k hk => hcond _ (Nat.le_add_right _ k) (by omega)
    exact ⟨_, .print a (zero_notMem_printedBytes hnonzero), .faults hcond rfl (exec_prt_of_noZero hcond)⟩
  · obtain ⟨n, hin, hzero, hbefore⟩ := exists_firstZero hcond
    exact ⟨_, .print a (zero_notMem_printedBytes hbefore), .goesOn nofun hcond (exec_prt_of_firstZero hin hzero hbefore)⟩

/-- All an instruction can do, in any state. -/
theorem exec_outcome (i : Instr) (s : State) : HasOutcome i s := by
  by_cases hi : i ∈ noOps
  · exact hasOutcome_noOp hi s
  cases i with
  | ld a b => exact hasOutcome_ld a b s
  | st a b => exact hasOutcome_st a b s
  | mov a b => exact ⟨_, .copy (.inl rfl), .goesOn nofun id (exec_mov a b s)⟩
  | cmp a b => exact ⟨_, .flags a b, .goesOn nofun id (exec_cmp a b s)⟩
  | jmp a | jeq a | jgt a | jf3 a | jlt a | jf5 a | jne a =>
    exact hasOutcome_jump (a := a) (by simp [JumpsTo]) s
  | add a b | sub a b | mul a b | shl a b | shr a b | or a b | and a b | xor a b | not a | inc a | dec a =>
    exact hasOutcome_aluWrite rfl rfl nofun id
  | div a b | mod a b => exact hasOutcome_aluDivide rfl rfl nofun Iff.rfl rfl
  | hlt => exact ⟨s, .nothing, .halts rfl rfl⟩
  | prt a => exact hasOutcome_prt a s
  | ldi d imm => exact hasOutcome_ldi d imm s
  | _ => exact absurd (by decide) hi

end Sys2Proof.Machine

/-! # Proofs: what no instruction does (40_step_and_nop.md R113, 60_exceptions.md R240, 10_state.md R22) -/

namespace Sys2Proof.Machine

/-- What an instruction that goes on leaves is its result written, and the status. -/
theorem writes_of_exec_next {i : Instr} {s t : State} (h : exec i s = .next t) :
    ∃ u st, Writes s i u ∧ t = u.withStatus st := by
  obtain ⟨u, hwrites, ⟨-, -, hr⟩ | ⟨-, hr⟩ | ⟨-, -, hr⟩⟩ := exec_outcome i s
  · exact ⟨u, .cont, hwrites, returnContinue_eq_next.mp (hr ▸ h)⟩
  · exact ⟨u, .halt, hwrites, returnHalt_eq_next.mp (hr ▸ h)⟩
  · exact absurd (hr ▸ h) raiseFault_ne_next

/-- Settles O31: the registers, the memory and the output of what `Writes` allows. -/
theorem onlyTheNamedResultIsWritten : Obligations.OnlyTheNamedResultIsWritten := by
  intro i s t h
  obtain ⟨u, st, hwrites, rfl⟩ := writes_of_exec_next h
  refine ⟨length_cellsWritten_le_one i, fun q hq => hwrites.reg_eq hq, fun q hst => ?memory, fun hprt => ?output⟩
  case memory =>
    obtain hsame | ⟨a, b, hi, hle, hlt, -⟩ := hwrites.byteAt_cases q
    · exact hsame
    · exact absurd ⟨hle, hlt⟩ (hst a b hi)
  case output =>
    obtain ⟨bs, hout, -, hbs⟩ := hwrites.out_eq
    obtain rfl : bs = [] := by
      by_contra hne
      obtain ⟨a, ha⟩ := hbs hne
      exact hprt a ha
    exact hout.trans (List.append_nil _)

/-- Settles O34: of the values a cell can come to hold, only a copy can reach `0x1000000`. -/
theorem onlyCopiesCarryTheGuardBit : Obligations.OnlyCopiesCarryTheGuardBit := by
  intro i s t h q hguard
  obtain ⟨u, st, hwrites, rfl⟩ := writes_of_exec_next h
  obtain hsame | ⟨a, hcopy, hval⟩ | hlt := hwrites.reg_cases q
  · exact .inl hsame
  · exact .inr ⟨a, hval, hcopy⟩
  · exact absurd hguard (Nat.not_le.mpr hlt)

/-! ## The ends -/

/-- The rows of R240 an instruction of its own can meet. -/
theorem faultCause_eq_some {i : Instr} {c : State → Fault} (h : faultCause i = some c) :
    (c = .loadOutOfRange ∧ ∃ a b, i = .ld a b) ∨ (c = .storeOutOfRange ∧ ∃ a b, i = .st a b) ∨
      (c = .divideByZero ∧ ∃ a b, i = .div a b ∨ i = .mod a b) ∨ (c = .printOutOfRange ∧ ∃ a, i = .prt a) := by
  cases i with
  | ld a b | st a b | div a b | mod a b | prt a => cases h; simp
  | _ => cases h

/-- Settles O32: none of the three ends is a refusal, and `Halt` is the end of `HLT` alone. -/
theorem onlyHltHaltsAndNothingIsRefused : Obligations.OnlyHltHaltsAndNothingIsRefused := by
  intro i s
  obtain ⟨u, -, ⟨hhlt, -, hr⟩ | ⟨hhlt, hr⟩ | ⟨-, hcause, hr⟩⟩ := exec_outcome i s <;> rw [hr]
  case goesOn =>
    refine ⟨fun _ => returnContinue_ne_refused, fun t ht => ?_, fun f hf => absurd hf returnContinue_ne_fault⟩
    rw [returnContinue_eq_next.mp ht, status_withStatus]
    exact ⟨nofun, nofun, fun h => absurd h hhlt⟩
  case halts =>
    refine ⟨fun _ => returnHalt_ne_refused, fun t ht => ?_, fun f hf => absurd hf returnHalt_ne_fault⟩
    rw [returnHalt_eq_next.mp ht, status_withStatus]
    exact ⟨nofun, fun _ => hhlt, fun _ => rfl⟩
  case faults =>
    refine ⟨fun _ => raiseFault_ne_refused, fun t ht => absurd ht raiseFault_ne_next, fun f hf => ?_⟩
    rw [raiseFault_eq_fault.mp hf]
    obtain ⟨rfl, -⟩ | ⟨rfl, -⟩ | ⟨rfl, -⟩ | ⟨rfl, -⟩ := faultCause_eq_some hcause <;> exact ⟨rfl, nofun⟩

/-- Settles O33: of the three ends only the fault has the condition, and it has the cause of the instruction's row. -/
theorem faultsExactlyUnderTheListedConditions : Obligations.FaultsExactlyUnderTheListedConditions := by
  intro i s
  obtain ⟨u, -, ⟨-, hcond, hr⟩ | ⟨hhlt, hr⟩ | ⟨hcond, hcause, hr⟩⟩ := exec_outcome i s <;> rw [hr]
  case goesOn =>
    exact ⟨⟨fun ⟨_, hf⟩ => absurd hf returnContinue_ne_fault, fun h => absurd h hcond⟩,
      fun _ hf => absurd hf returnContinue_ne_fault⟩
  case halts =>
    subst hhlt
    exact ⟨⟨fun ⟨_, hf⟩ => absurd hf returnHalt_ne_fault, False.elim⟩, fun _ hf => absurd hf returnHalt_ne_fault⟩
  case faults =>
    refine ⟨⟨fun _ => hcond, fun _ => ⟨_, rfl⟩⟩, fun f hf => ?_⟩
    rw [raiseFault_eq_fault.mp hf]
    obtain ⟨rfl, hi⟩ | ⟨rfl, hi⟩ | ⟨rfl, hi⟩ | ⟨rfl, hi⟩ := faultCause_eq_some hcause
    · exact .inl ⟨rfl, hi⟩
    · exact .inr (.inl ⟨rfl, hi⟩)
    · exact .inr (.inr (.inl ⟨rfl, hi⟩))
    · exact .inr (.inr (.inr ⟨rfl, hi⟩))

end Sys2Proof.Machine

/-! # Proofs: all a step can leave (40_step_and_nop.md R110, R116, 60_exceptions.md R241) -/

namespace Sys2Proof.Machine

/-! ## What the fetch leaves -/

/-- The state the fetch leaves when it finds all its bytes: `pc` is past them. -/
def State.fetched (s : State) : State := s.setPc (s.pc + BitVec.ofNat 25 (formLength (s.byteAt s.pc.toNat)))

/-- The state a fetch leaves when the bytes run out: `pc` at the first address outside memory, or beyond it where it was
(R116). -/
def State.fetchFaulted (s : State) : State := if memSize ≤ s.pc.toNat then s else s.setPc 0x1000000

theorem fetchFaulted_cases (s : State) : s.fetchFaulted = s ∨ s.fetchFaulted = s.setPc 0x1000000 := ite_eq_or_eq ..

/-! Of registers, memory and output, the fetch changes `pc` alone. -/

theorem reg_fetched (s : State) {q : Reg} (hq : q ≠ pcReg) : s.fetched.reg q = s.reg q := reg_setReg_ne s _ hq
@[simp] theorem pc_fetched (s : State) :
    s.fetched.pc = s.pc + BitVec.ofNat 25 (formLength (s.byteAt s.pc.toNat)) := pc_setPc ..
@[simp] theorem mem_fetched (s : State) : s.fetched.mem = s.mem := rfl
@[simp] theorem out_fetched (s : State) : s.fetched.out = s.out := rfl
@[simp] theorem byteAt_fetched (s : State) (q : Nat) : s.fetched.byteAt q = s.byteAt q := rfl

theorem reg_fetchFaulted (s : State) {q : Reg} (hq : q ≠ pcReg) : s.fetchFaulted.reg q = s.reg q := by
  obtain h | h := fetchFaulted_cases s <;> rw [h]
  exact reg_setReg_ne s _ hq

@[simp] theorem mem_fetchFaulted (s : State) : s.fetchFaulted.mem = s.mem := by
  obtain h | h := fetchFaulted_cases s <;> rw [h]
  exact mem_setPc s _

@[simp] theorem out_fetchFaulted (s : State) : s.fetchFaulted.out = s.out := by
  obtain h | h := fetchFaulted_cases s <;> rw [h]
  exact out_setPc s _

@[simp] theorem byteAt_fetchFaulted (s : State) (q : Nat) : s.fetchFaulted.byteAt q = s.byteAt q := by
  rw [byteAt_eq, mem_fetchFaulted, byteAt_eq]

/-! ## What the step leaves -/

/-- What an instruction leaves, going on or faulting, is its result written, and the status. -/
theorem writes_of_exec_leaves {i : Instr} {s t : State}
    (h : exec i s = .next t ∨ ∃ f, exec i s = .fault f ∧ f.left = t) : ∃ u st, Writes s i u ∧ t = u.withStatus st := by
  obtain hnext | ⟨f, hfault, rfl⟩ := h
  · exact writes_of_exec_next hnext
  · obtain ⟨u, hwrites, ⟨-, -, hr⟩ | ⟨-, hr⟩ | ⟨-, hcause, hr⟩⟩ := exec_outcome i s
    · exact absurd (hr ▸ hfault) returnContinue_ne_fault
    · exact absurd (hr ▸ hfault) returnHalt_ne_fault
    · refine ⟨u, .fault, hwrites, ?_⟩
      rw [hr] at hfault
      rw [raiseFault_eq_fault.mp hfault]
      obtain ⟨rfl, -⟩ | ⟨rfl, -⟩ | ⟨rfl, -⟩ | ⟨rfl, -⟩ := faultCause_eq_some hcause <;> rfl

/-- All a step can leave: what the fetch leaves when it faults, or what the fetched instruction leaves. -/
theorem leaves_cases {s t : State} (h : Leaves s t) :
    (fetch s = .error s.fetchFaulted ∧ t = s.fetchFaulted.withStatus .fault) ∨
      ∃ f u st, fetch s = .ok (f, s.fetched) ∧ f.b0 = s.byteAt s.pc.toNat ∧
        s.pc.toNat + formLength (s.byteAt s.pc.toNat) ≤ memSize ∧ Writes s.fetched f.instr u ∧ t = u.withStatus st := by
  unfold Leaves at h
  obtain ⟨-, hr⟩ | ⟨-, hr⟩ | ⟨-, left, hfetch, hr⟩ | ⟨-, f, s', hfetch, hr⟩ := step_cases s <;> rw [hr] at h
  case inl | inr.inl => simp at h
  case inr.inr.inl =>
    obtain ⟨g, hg, -⟩ | herror := fetch_cases s
    · rw [hfetch] at hg
      cases hg
    · rw [hfetch] at herror
      cases herror
      simp only [reduceCtorEq, false_or] at h
      obtain ⟨g, hg, rfl⟩ := h
      cases hg
      exact .inl ⟨hfetch, rfl⟩
  case inr.inr.inr =>
    obtain ⟨g, hg, hb0, hfits⟩ | herror := fetch_cases s
    · rw [hfetch] at hg
      cases hg
      obtain ⟨u, st, hwrites, ht⟩ := writes_of_exec_leaves h
      exact .inr ⟨f, u, st, hfetch, hb0, hfits, hwrites, ht⟩
    · rw [hfetch] at herror
      cases herror

end Sys2Proof.Machine

/-! # Proofs: the invariants of every step (10_state.md R22, R26, R31, R33, 42_transfer.md R141) -/

namespace Sys2Proof.Machine

/-! ## The cells in range and the memory canonical -/

theorem cellsInRange_setReg {s : State} (h : s.cellsInRange) (r : Reg) {v : RawCell} (hv : v.toNat ≤ 0x1000000) :
    (s.setReg r v).cellsInRange := by
  intro q
  rw [reg_setReg]
  split
  · exact hv
  · exact h q

theorem Writes.cellsInRange {i : Instr} {s u : State} (h : Writes s i u) (hs : s.cellsInRange) : u.cellsInRange := by
  intro q
  obtain hsame | ⟨a, -, hcopy⟩ | hlt := h.reg_cases q
  · rw [hsame]; exact hs q
  · rw [hcopy]; exact hs a
  · exact hlt.le

theorem leaves_cellsInRange {s t : State} (h : Leaves s t) (hs : s.cellsInRange) : t.cellsInRange := by
  obtain ⟨-, rfl⟩ | ⟨f, u, st, -, -, hfits, hwrites, rfl⟩ := leaves_cases h
  · obtain hsame | htop := fetchFaulted_cases s
    · rw [hsame]; exact hs
    · rw [htop]; exact cellsInRange_setReg hs pcReg (by decide)
  · have hfetched : s.fetched.cellsInRange := cellsInRange_setReg hs pcReg ((toNat_pc_add hfits).trans_le hfits)
    exact hwrites.cellsInRange hfetched

theorem leaves_mem_wf {s t : State} (h : Leaves s t) (hs : s.mem.wf = true) : t.mem.wf = true := by
  obtain ⟨-, rfl⟩ | ⟨f, u, st, -, -, -, hwrites, rfl⟩ := leaves_cases h
  · rw [mem_withStatus, mem_fetchFaulted]; exact hs
  · rw [mem_withStatus]; exact hwrites.mem_wf (by rwa [mem_fetched])

/-- Settles O37: each half by its own lemma. -/
theorem stepKeepsCellsInRangeAndMemoryCanonical : Obligations.StepKeepsCellsInRangeAndMemoryCanonical :=
  fun _ _ ⟨hmem, hcells⟩ h => ⟨leaves_mem_wf h hmem, leaves_cellsInRange h hcells⟩

theorem cellsInRange_reset : State.reset.cellsInRange := by
  intro q
  rw [reg_reset]
  decide

theorem cellsInRange_start (image : Memory) (initialPc : Word) : (State.start image initialPc).cellsInRange :=
  cellsInRange_setReg (s := { State.reset with mem := image }) cellsInRange_reset pcReg (zext25_lt initialPc).le

/-- Settles O38: reset has no cell of memory, and the start state has the image's. -/
theorem resetAndStartAreWellFormed : Obligations.ResetAndStartAreWellFormed :=
  ⟨⟨rfl, cellsInRange_reset⟩, fun image initialPc himage => ⟨himage, cellsInRange_start image initialPc⟩⟩

/-- Settles O39, by induction on the run. -/
theorem cellsStayInRangeInEveryRun : Obligations.CellsStayInRangeInEveryRun := by
  intro image initialPc s hs
  induction hs with
  | start => exact cellsInRange_start image initialPc
  | step _ hleaves ih => exact leaves_cellsInRange hleaves ih

/-! ## Memory and output -/

/-- Settles O40: the fetch changes no byte, and of what an instruction writes only the `ST` does. -/
theorem onlyStoresChangeMemoryAndOnlyToFF : Obligations.OnlyStoresChangeMemoryAndOnlyToFF := by
  intro s t q h hq
  obtain ⟨-, rfl⟩ | ⟨f, u, st, hfetch, -, -, hwrites, rfl⟩ := leaves_cases h
  · exact absurd (byteAt_fetchFaulted s q) hq
  · obtain hsame | ⟨a, b, hi, hle, hlt, hvalid, hff⟩ := hwrites.byteAt_cases q
    · exact absurd (hsame.trans (byteAt_fetched s q)) hq
    · exact ⟨hff, f, s.fetched, a, b, hfetch, hi, hle, hlt, hvalid⟩

/-- Settles O41: the fetch prints nothing, and of what an instruction writes only the `PRT` does. -/
theorem outputOnlyGrowsAndOnlyByPrt : Obligations.OutputOnlyGrowsAndOnlyByPrt := by
  intro s t h
  obtain ⟨-, rfl⟩ | ⟨f, u, st, hfetch, -, -, hwrites, rfl⟩ := leaves_cases h
  · refine ⟨[], ?_, List.not_mem_nil, fun h => absurd rfl h⟩
    rw [out_withStatus, out_fetchFaulted, List.append_nil]
  · obtain ⟨bs, hout, hzero, hprt⟩ := hwrites.out_eq
    rw [out_fetched] at hout
    refine ⟨bs, hout, hzero, fun hne => ?_⟩
    obtain ⟨a, ha⟩ := hprt hne
    exact ⟨a, f, s.fetched, hfetch, ha⟩

/-! ## The flags -/

/-- `CMP` writes the flags cell or nothing. -/
theorem Writes.flagsLegal_of_cmp {a b : Reg} {s u : State} (h : Writes s (.cmp a b) u) (hs : s.flagsLegal) : u.flagsLegal := by
  cases h with
  | nothing => exact hs
  | copy hcopy => simp [CopiesInto, JumpsTo] at hcopy
  | result hcell => cases hcell
  | flags =>
    have hflags : (s.setReg flagsReg (s.compareResult a b)).flags = s.compareResult a b := reg_setReg_same ..
    unfold State.flagsLegal
    rw [hflags]
    exact .inr (compareResult_cases s a b)

/-- A state whose flags cell is the same is as legal. -/
theorem flagsLegal_congr {s t : State} (h : t.reg flagsReg = s.reg flagsReg) (hs : s.flagsLegal) : t.flagsLegal := by
  unfold State.flagsLegal State.flags at hs ⊢
  rwa [h]

/-- Settles O30: the flags cell is the old one, or `CMP` has written it. -/
theorem flagsStayLegalUnlessNamed : Obligations.FlagsStayLegalUnlessNamed := by
  intro s t hs h hnamed
  obtain ⟨-, rfl⟩ | ⟨f, u, st, hfetch, -, -, hwrites, rfl⟩ := leaves_cases h
  · exact flagsLegal_congr (reg_fetchFaulted s (by decide)) hs
  · have hfetched : s.fetched.flagsLegal := flagsLegal_congr (reg_fetched s (by decide)) hs
    show u.flagsLegal
    by_cases hmem : flagsReg ∈ cellsWritten f.instr
    · obtain ⟨a, b, hcmp⟩ := hnamed f.instr ⟨f, s.fetched, hfetch, rfl⟩ hmem
      rw [hcmp] at hwrites
      exact hwrites.flagsLegal_of_cmp hfetched
    · exact flagsLegal_congr (hwrites.reg_eq hmem) hfetched

/-! ## The pc -/

theorem length_of_jumpsTo {i : Instr} {a : Reg} (h : JumpsTo i a) : i.length = 2 := by
  rcases h with rfl | rfl | rfl | rfl | rfl | rfl | rfl <;> rfl

theorem resultCell_of_jumpsTo {i : Instr} {a : Reg} (h : JumpsTo i a) : resultCell i = none := by
  rcases h with rfl | rfl | rfl | rfl | rfl | rfl | rfl <;> rfl

/-- A jump copies its one operand, into `pc`. -/
theorem eq_of_copiesInto_of_jumpsTo {i : Instr} {a b r : Reg} (hjump : JumpsTo i a) (hcopy : CopiesInto i b r) :
    r = pcReg ∧ b = a := by
  rcases hjump with rfl | rfl | rfl | rfl | rfl | rfl | rfl <;> simpa [CopiesInto, JumpsTo, eq_comm] using hcopy

/-- A jump writes its target to `pc`, or nothing. -/
theorem Writes.pc_of_jumpsTo {i : Instr} {a : Reg} {s u : State} (h : Writes s i u) (hjump : JumpsTo i a) :
    u.pc = s.pc ∨ u.pc = s.reg a := by
  cases h with
  | nothing | print => exact .inl rfl
  | copy hcopy =>
    obtain ⟨rfl, rfl⟩ := eq_of_copiesInto_of_jumpsTo hjump hcopy
    exact .inr (pc_setPc s _)
  | result hcell =>
    rw [resultCell_of_jumpsTo hjump] at hcell
    cases hcell
  | flags => exact .inl (reg_setReg_ne s _ (by decide))
  | store hstore => exact .inl (hstore.1 pcReg)

/-- Settles O42: the fetched state's `pc` is past the instruction, and the instruction keeps it or names it. -/
theorem stepAdvancesPcByTheInstructionLength : Obligations.StepAdvancesPcByTheInstructionLength := by
  intro s t i hi hstep
  obtain ⟨g, s', hg, rfl⟩ := hi
  obtain ⟨herror, -⟩ | ⟨f, u, st, hfetch, hb0, hfits, hwrites, rfl⟩ := leaves_cases (.inl hstep)
  · rw [hg] at herror
    cases herror
  rw [hg] at hfetch
  cases hfetch
  have hlen : formLength (s.byteAt s.pc.toNat) = g.instr.length := by
    rw [← hb0]; exact (length_decodeBytes g.b0 g.b1 g.b2 g.b3).symm
  have hpc : s.fetched.pc.toNat = s.pc.toNat + g.instr.length := by
    rw [← hlen, pc_fetched]; exact toNat_pc_add hfits
  refine ⟨hlen ▸ hfits, fun hnot => ?keeps, fun a hjump => ?jumps⟩
  case keeps =>
    rw [← hpc]
    exact congrArg BitVec.toNat (hwrites.reg_eq hnot)
  case jumps =>
    have hjumps : JumpsTo g.instr a := .inr hjump
    have htwo := length_of_jumpsTo hjumps
    obtain hsame | htarget := hwrites.pc_of_jumpsTo hjumps
    · refine .inl ?_
      rw [← htwo, ← hpc]
      exact congrArg BitVec.toNat hsame
    · refine .inr (htarget.trans ?_)
      rw [State.fetched, hlen, htwo]
      rfl

end Sys2Proof.Machine

/-! # Proofs: the operands of the arithmetic/logic unit (45_alu.md R191, R193) -/

namespace Sys2Proof.Machine

/-! ## The guard bit of an operand -/

/-- The mask takes numbers that agree modulo 2^24 to one word. -/
theorem mask24_congr {e e' : Int} (h : e ≡ e' [ZMOD 0x1000000]) : mask24 e = mask24 e' := by
  apply BitVec.eq_of_toNat_eq
  have hnum : ((mask24 e).toNat : Int) = (mask24 e').toNat := by rw [toInt_mask24, toInt_mask24]; exact h
  exact_mod_cast hnum

/-- Two cells agree in their low 24 bits. -/
def SameLow (x x' : RawCell) : Prop := x.setWidth 24 = x'.setWidth 24

/-- Then their numbers agree modulo 2^24. -/
theorem SameLow.modEq {x x' : RawCell} (h : SameLow x x') : (x.toNat : Int) ≡ x'.toNat [ZMOD 0x1000000] := by
  have hmod : x.toNat % 2 ^ 24 = x'.toNat % 2 ^ 24 := by
    simpa only [BitVec.toNat_setWidth] using congrArg BitVec.toNat h
  exact Int.natCast_modEq_iff.mpr hmod

section Congruence

variable {x x' y y' : RawCell} (hx : SameLow x x') (hy : SameLow y y')

include hx

theorem aluInc_congr : aluInc x.toNat = aluInc x'.toNat := mask24_congr (hx.modEq.add_right 1)

theorem aluDec_congr : aluDec x.toNat = aluDec x'.toNat := mask24_congr (hx.modEq.sub_right 1)

theorem aluNot_congr : aluNot x = aluNot x' := by rw [aluNot, aluNot, hx]

theorem aluShl_congr (n : Nat) : aluShl x.toNat n = aluShl x'.toNat n := by
  have hmul : ((x.toNat * 2 ^ n : Nat) : Int) ≡ (x'.toNat * 2 ^ n : Nat) [ZMOD 0x1000000] := by
    rw [Nat.cast_mul, Nat.cast_mul]
    exact hx.modEq.mul_right _
  rw [aluShl, aluShl, mask24_congr hmul]

include hy

theorem aluAdd_congr : aluAdd x.toNat y.toNat = aluAdd x'.toNat y'.toNat := mask24_congr (hx.modEq.add hy.modEq)

theorem aluSub_congr : aluSub x.toNat y.toNat = aluSub x'.toNat y'.toNat := mask24_congr (hx.modEq.sub hy.modEq)

theorem aluMul_congr : aluMul x.toNat y.toNat = aluMul x'.toNat y'.toNat := mask24_congr (hx.modEq.mul hy.modEq)

theorem aluOr_congr : aluOr x y = aluOr x' y' := by
  rw [aluOr, aluOr, BitVec.setWidth_or, BitVec.setWidth_or, hx, hy]

theorem aluAnd_congr : aluAnd x y = aluAnd x' y' := by
  rw [aluAnd, aluAnd, BitVec.setWidth_and, BitVec.setWidth_and, hx, hy]

theorem aluXor_congr : aluXor x y = aluXor x' y' := by
  rw [aluXor, aluXor, BitVec.setWidth_xor, BitVec.setWidth_xor, hx, hy]

end Congruence

/-- Two writes of one result leave the same value. -/
theorem sameResult_of_aluWrite {r r' : Result} {a : Reg} {w w' : Word} {s s' : State} (h : r = aluWrite a w s)
    (h' : r' = aluWrite a w' s') (hw : w = w') : ∃ t t', r = .next t ∧ r' = .next t' ∧ t.reg a = t'.reg a := by
  obtain ⟨t, ht, hcell, -⟩ := writesCell_of_aluWrite h
  obtain ⟨t', ht', hcell', -⟩ := writesCell_of_aluWrite h'
  exact ⟨t, t', ht, ht', by rw [hcell, hcell', hw]⟩

/-- Settles O35: each operation respects agreement in the low 24 bits. -/
theorem guardBitsDoNotReachTheAluResult : Obligations.GuardBitsDoNotReachTheAluResult := by
  intro a b s s' ha hb
  refine ⟨?_, fun hamount => ?shl⟩
  case shl =>
    exact sameResult_of_aluWrite (exec_shl a b s) (exec_shl a b s') (by rw [hamount]; exact aluShl_congr ha _)
  simp only [List.forall_mem_cons, List.not_mem_nil, false_imp_iff, implies_true, and_true]
  refine ⟨?_, ?_, ?_, ?_, ?_, ?_, ?_, ?_, ?_⟩
  · exact sameResult_of_aluWrite (exec_add a b s) (exec_add a b s') (aluAdd_congr ha hb)
  · exact sameResult_of_aluWrite (exec_sub a b s) (exec_sub a b s') (aluSub_congr ha hb)
  · exact sameResult_of_aluWrite (exec_mul a b s) (exec_mul a b s') (aluMul_congr ha hb)
  · exact sameResult_of_aluWrite (exec_or a b s) (exec_or a b s') (aluOr_congr ha hb)
  · exact sameResult_of_aluWrite (exec_and a b s) (exec_and a b s') (aluAnd_congr ha hb)
  · exact sameResult_of_aluWrite (exec_xor a b s) (exec_xor a b s') (aluXor_congr ha hb)
  · exact sameResult_of_aluWrite (exec_not a s) (exec_not a s') (aluNot_congr ha)
  · exact sameResult_of_aluWrite (exec_inc a s) (exec_inc a s') (aluInc_congr ha)
  · exact sameResult_of_aluWrite (exec_dec a s) (exec_dec a s') (aluDec_congr ha)

/-! ## Quotient and remainder -/

/-- A division of a number of 24 bits needs no mask. -/
theorem aluDiv_toNat {x : Nat} (y : Nat) (hx : x < 0x1000000) : (aluDiv x y).toNat = x / y := by
  rw [aluDiv_exact, Nat.mod_eq_of_lt ((Nat.div_le_self x y).trans_lt hx)]

theorem aluMod_toNat {x : Nat} (y : Nat) (hx : x < 0x1000000) : (aluMod x y).toNat = x % y := by
  rw [aluMod_exact, Nat.mod_eq_of_lt ((Nat.mod_le x y).trans_lt hx)]

/-- Settles O36: both go on, and unmasked they are quotient and remainder of the natural numbers. -/
theorem quotientAndRemainderRebuildTheDividend : Obligations.QuotientAndRemainderRebuildTheDividend := by
  intro a b s ha _ hb
  obtain ⟨t, ht, hquot, -⟩ := writesCell_of_aluWrite ((exec_div a b s).trans (aluDivide_of_ne_zero aluDiv a hb))
  obtain ⟨t', ht', hrem, -⟩ := writesCell_of_aluWrite ((exec_mod a b s).trans (aluDivide_of_ne_zero aluMod a hb))
  have hpos : 0 < (s.reg b).toNat := Nat.pos_of_ne_zero fun h => hb (BitVec.eq_of_toNat_eq h)
  refine ⟨t, t', ht, ht', ?_, ?_⟩
  · rw [hquot, hrem, toNat_zext25, toNat_zext25, aluDiv_toNat _ ha, aluMod_toNat _ ha, Nat.div_add_mod']
  · rw [hrem, toNat_zext25, aluMod_toNat _ ha]
    exact Nat.mod_lt _ hpos

end Sys2Proof.Machine
